-- ==== Sys2Proof/Word.lean ====
section
/-! DEFINITION. The word types of `00_scope.md` rule R5: unsigned integers of 8, 32, 64 and 128 bits. -/

namespace Sys2Proof

abbrev Byte := BitVec 8
abbrev U32 := BitVec 32
abbrev U64 := BitVec 64
abbrev U128 := BitVec 128

/-- A byte sequence seen through its offsets (`00_scope.md` rule R5, `20_memory.md` rule R40): what reading one byte
gives. It is only ever an argument of a function; no field of `State` holds one. -/
abbrev Bytes := Nat → Byte

end Sys2Proof
end

