-- ==== Sys2Proof/Machine/Arith.lean ====
section
/-! DEFINITION. The arithmetic primitives of `00_scope.md` section 5, each total, none writing a flag. -/

namespace Sys2Proof.Machine

/-- `ADD64` (R6). -/
def add64 (a b : U64) : U64 := a + b

/-- `SUB64` (R6). -/
def sub64 (a b : U64) : U64 := a - b

/-- `MUL64` (R7): the low 64 bits of the product. -/
def mul64 (a b : U64) : U64 := a * b

/-- `MUL32` (R8): the whole 64-bit product of two 32-bit values. -/
def mul32 (a b : U32) : U64 := a.setWidth 64 * b.setWidth 64

/-- `MULFOLD` (R9): the two halves of the 128-bit product, exclusive-ored. -/
def mulFold (a b : U64) : U64 :=
  let p : U128 := a.setWidth 128 * b.setWidth 128
  p.extractLsb' 0 64 ^^^ p.extractLsb' 64 64

/-- `XORSHIFT` (R10), used with amounts 28 to 47. DESIGN CHOICE: outside `0 < s < 64`, which no rule uses, the shifted
copy is `v` for 0 and 0 from 64 on (log entry 23). -/
def xorShift (v : U64) (s : Nat) : U64 := v ^^^ (v >>> s)

/-- `ROTL64` (R11), used with amounts 24 and 49. DESIGN CHOICE: outside `0 < r < 64`, which no rule uses, it is `v`
(log entry 23). -/
def rotl64 (v : U64) (r : Nat) : U64 := (v <<< r) ||| (v >>> (64 - r))

/-- `SWAP32` (R12). -/
def swap32 (v : U32) : U32 :=
  (v.extractLsb' 0 8 ++ v.extractLsb' 8 8 ++ v.extractLsb' 16 8 ++ v.extractLsb' 24 8 : BitVec (8 + 8 + 8 + 8))

/-- `SWAP64` (R12). -/
def swap64 (v : U64) : U64 :=
  (swap32 (v.extractLsb' 0 32) ++ swap32 (v.extractLsb' 32 32) : BitVec (32 + 32))

/-- The number that `n` bytes at `off` spell, the byte at the lowest offset least significant (R14, `20_memory.md`
rule R41). -/
def leNat (b : Bytes) : Nat → Nat → Nat
  | _, 0 => 0
  | off, n + 1 => (b off).toNat + 256 * leNat b (off + 1) n

/-- `LE32` (R14). -/
def le32 (b : Bytes) (off : Nat) : U32 := BitVec.ofNat 32 (leNat b off 4)

/-- `LE64` (R14). -/
def le64 (b : Bytes) (off : Nat) : U64 := BitVec.ofNat 64 (leNat b off 8)

/-- Byte `k` of a 64-bit value: bits `8k+7 .. 8k` (`20_memory.md` rule R41). -/
def byteOf (v : U64) (k : Nat) : Byte := v.extractLsb' (8 * k) 8

/-- The eight bytes of a 64-bit value in little-endian order. -/
def leBytes (v : U64) : List Byte := (List.range 8).map (byteOf v)

end Sys2Proof.Machine
end

