-- ==== Sys2Proof/Config.lean ====
section
/-! DEFINITION. The parameters of the block (`00_scope.md` rule R4) and the free values of the model. -/

namespace Sys2Proof

/-- `SECRET_SEED_POLICY` (`43_seedmixer.md` rule R129): the effective secret of a long call with a custom secret and a
non-zero seed. -/
inductive SecretSeedPolicy where
  /-- SEEDMIX of the custom secret (the default). -/
  | doc
  /-- The custom secret unchanged; the seed is ignored. -/
  | canonSecretAndSeed
  /-- SEEDMIX of the default table; the custom secret is ignored. -/
  | canonSeedOnly
  deriving DecidableEq, Repr

/-- The open parameters that R4 leaves as arguments of the model. `State` carries one `Config`, which no step changes
(DESIGN CHOICE, log entry 1), so a statement for every state is a statement for every value of the parameters. -/
structure Config where
  policy : SecretSeedPolicy
  /-- `SECRET_MAX`, the capacity of `SEC` in bytes. -/
  secretMax : Nat
  deriving DecidableEq, Repr

/-- The parameters at `State.reset`: the policy R4 names (`DOC`), and a bound that no 64-bit `SECRET_LEN` exceeds
(DESIGN CHOICE, log entry 1). -/
def Config.default : Config := { policy := .doc, secretMax := 2 ^ 64 - 1 }

/-- What a host read of `RESULT` or `HEX` returns while the spec leaves the value unspecified
(`93_implementation_defined.md` U1): nothing is known of it. The argument is the number of draws before this one
(log entry 4). -/
opaque Config.freeValue : Nat → U64

end Sys2Proof
end

