-- ==== Sys2Proof/Syntax.lean ====
section
/-! DEFINITION. The operations of `spec/opcode_table.json`: 32 rows in five formats (`30_encoding.md` section 6). -/

namespace Sys2Proof

/-- The five formats of the opcode table (`30_encoding.md` section 6). -/
inductive Format where
  /-- 72 bits: a host register access (R60). -/
  | hostacc
  /-- 64 bits: the command word (R61). -/
  | cmd
  /-- 4 bits: the dispatcher's selector `ovr_en || BUCKET` (R64). -/
  | dsel
  /-- 4 bits: the sequencer's phase (R65). -/
  | phase
  /-- 2 bits: the final-mixer select (R67). -/
  | fmix
  deriving DecidableEq, Repr

/-- The width in bits of a code of each format. -/
def Format.width : Format → Nat
  | .hostacc => 72
  | .cmd => 64
  | .dsel => 4
  | .phase => 4
  | .fmix => 2

/-- A code: a format and the number its bits spell, bit 0 the least significant. -/
structure Code where
  fmt : Format
  bits : Nat
  deriving DecidableEq, Repr

/-- One constructor per row of the opcode table. -/
inductive Instr where
  /-- `WR`: a 64-bit host write of `value` at `offset` (R60). -/
  | wr (offset : BitVec 7) (value : U64)
  /-- `RD`: a 64-bit host read at `offset` (R60). -/
  | rd (offset : BitVec 7)
  /-- `HASH` (R75), with the other three defined bits of the command word (R61). -/
  | hash (secretEn ovrEn inNull : Bool)
  /-- `HASH_HEX` (R76). -/
  | hashHex (secretEn ovrEn inNull : Bool)
  /-- `LEN0` (R91). -/
  | len0
  /-- `LEN1_3` (R92). -/
  | len1_3
  /-- `LEN4_8` (R93). -/
  | len4_8
  /-- `LEN9_16` (R94). -/
  | len9_16
  /-- `LEN17_128` (R96). -/
  | len17_128
  /-- `LEN129_240` (R97). -/
  | len129_240
  /-- `LONG` (R113). -/
  | long
  /-- `LONG_OVR` (R81). -/
  | longOvr
  /-- `IDLE` (R84). -/
  | idle
  /-- `CHECK` (R153). -/
  | check
  /-- `DISPATCH` (R78). -/
  | dispatch
  /-- `SHORT` (R90). -/
  | short
  /-- `SEEDMIX` (R126). -/
  | seedmix
  /-- `OVR_WAIT` (R81). -/
  | ovrWait
  /-- `ACC_INIT` (R106). -/
  | accInit
  /-- `STRIPE` (R109). -/
  | stripe
  /-- `SCRAMBLE` (R108). -/
  | scramble
  /-- `TAIL` (R110). -/
  | tail
  /-- `LAST` (R111). -/
  | last
  /-- `MERGE` (R112). -/
  | merge
  /-- `FINAL` (R138). -/
  | final
  /-- `FORMAT` (R145). -/
  | format
  /-- `DONE` (R85). -/
  | done
  /-- `ERR` (R154). -/
  | err
  /-- `AVAL64` (R135). -/
  | aval64
  /-- `RRMXMX` (R137). -/
  | rrmxmx
  /-- `AVAL3` (R136). -/
  | aval3
  /-- `BYPASS` (R139). -/
  | bypass
  deriving DecidableEq, Repr

/-- The format of an operation's code. -/
def Instr.fmt : Instr → Format
  | .wr _ _ | .rd _ => .hostacc
  | .hash _ _ _ | .hashHex _ _ _ => .cmd
  | .len0 | .len1_3 | .len4_8 | .len9_16 | .len17_128 | .len129_240 | .long | .longOvr => .dsel
  | .idle | .check | .dispatch | .short | .seedmix | .ovrWait | .accInit | .stripe | .scramble | .tail | .last
  | .merge | .final | .format | .done | .err => .phase
  | .aval64 | .rrmxmx | .aval3 | .bypass => .fmix

/-- Why a code is no operation. Each is a rejection by name; none is an effect of the hardware. -/
inductive DecodeError where
  /-- The number has a bit above the format's width. -/
  | tooWide
  /-- A host access whose offset is not a register's, or a read that reaches past the window (R40: offsets not listed
  do not exist). -/
  | noSuchOffset
  /-- A host read whose value bits are not zero (R60: zero for `RD`). -/
  | readWithValue
  /-- The bucket code 7, "not an operation" (R64, R66). -/
  | notAnOperation
  deriving DecidableEq, Repr

end Sys2Proof
end

