-- ==== Sys2Proof/WellFormed.lean ====
section
/-! DEFINITION. Which terms of `Instr` are operations the spec encodes: a host access names one of the register offsets. -/

namespace Sys2Proof

/-- The register offsets of `20_memory.md` rule R40: `CMD`, `STATUS`, `SEED`, `LEN`, `SECRET_LEN`, `RESULT` one each,
and every byte `0x30 .. 0x3F` of `HEX`. A host write names one of them (`30_encoding.md` rule R60). -/
def writeOffsets : List (BitVec 7) :=
  [0x00, 0x08, 0x10, 0x18, 0x20, 0x28] ++
    [0x30, 0x31, 0x32, 0x33, 0x34, 0x35, 0x36, 0x37, 0x38, 0x39, 0x3A, 0x3B, 0x3C, 0x3D, 0x3E, 0x3F]

/-- The register offsets a host read names: those whose eight bytes exist. The window is `0x40` bytes long (R40), so
from `0x39` on the read would reach past its end. -/
def readOffsets : List (BitVec 7) := writeOffsets.filter fun offset => decide (offset.toNat + 8 ≤ 0x40)

/-- No operation but a host access has an operand that could be out of range (`30_encoding.md` rule R69). -/
def Instr.wellFormed : Instr → Bool
  | .wr offset _ => writeOffsets.contains offset
  | .rd offset => readOffsets.contains offset
  | .hash _ _ _ | .hashHex _ _ _ => true
  | .len0 | .len1_3 | .len4_8 | .len9_16 | .len17_128 | .len129_240 | .long | .longOvr => true
  | .idle | .check | .dispatch | .short | .seedmix | .ovrWait | .accInit | .stripe | .scramble | .tail | .last
  | .merge | .final | .format | .done | .err => true
  | .aval64 | .rrmxmx | .aval3 | .bypass => true

end Sys2Proof
end

