-- ==== Sys2Proof/Decode.lean ====
section
/-! DEFINITION. The decoder, total on every code of every format, and after it the encoder and the opcode table's rows
(`30_encoding.md` rules R60 to R67, `opcode_table.json`). -/

namespace Sys2Proof

/-! ### The decoder -/

/-- `HOSTACC` (R60): bit 71 the direction, bits 70:64 the offset, bits 63:0 the value. -/
def decodeHostacc (w : BitVec 72) : Except DecodeError Instr :=
  let offset : BitVec 7 := w.extractLsb' 64 7
  let value : U64 := w.extractLsb' 0 64
  if w.getLsbD 71 then
    if writeOffsets.contains offset then .ok (.wr offset value) else .error .noSuchOffset
  else if readOffsets.contains offset then
    if value = 0 then .ok (.rd offset) else .error .readWithValue
  else .error .noSuchOffset

/-- `CMD` (R61): bit 0 `OP`, bit 1 `SECRET_EN`, bit 2 `OVR_EN`, bit 3 `IN_NULL`; bits 63:4 are ignored (R66), and no
command word is illegal. -/
def decodeCmd (w : U64) : Instr :=
  let secretEn := w.getLsbD 1
  let ovrEn := w.getLsbD 2
  let inNull := w.getLsbD 3
  if w.getLsbD 0 then .hashHex secretEn ovrEn inNull else .hash secretEn ovrEn inNull

/-- `DSEL` (R64): bit 3 `ovr_en`, bits 2:0 the bucket code; codes 0 to 5 ignore bit 3. -/
def decodeDsel (w : BitVec 4) : Except DecodeError Instr :=
  match (w.extractLsb' 0 3).toNat with
  | 0 => .ok .len0
  | 1 => .ok .len1_3
  | 2 => .ok .len4_8
  | 3 => .ok .len9_16
  | 4 => .ok .len17_128
  | 5 => .ok .len129_240
  | 6 => if w.getLsbD 3 then .ok .longOvr else .ok .long
  | _ => .error .notAnOperation

/-- `PHASE` (R65): all sixteen codes are assigned. -/
def decodePhase (w : BitVec 4) : Instr :=
  match w.toNat with
  | 0 => .idle
  | 1 => .check
  | 2 => .dispatch
  | 3 => .short
  | 4 => .seedmix
  | 5 => .ovrWait
  | 6 => .accInit
  | 7 => .stripe
  | 8 => .scramble
  | 9 => .tail
  | 10 => .last
  | 11 => .merge
  | 12 => .final
  | 13 => .format
  | 14 => .done
  | _ => .err

/-- `FMIX` (R67): all four codes are assigned. -/
def decodeFmix (w : BitVec 2) : Instr :=
  match w.toNat with
  | 0 => .aval64
  | 1 => .rrmxmx
  | 2 => .aval3
  | _ => .bypass

/-- The operation a code stands for, or why it stands for none. -/
def decode (c : Code) : Except DecodeError Instr :=
  if c.bits < 2 ^ c.fmt.width then
    match c.fmt with
    | .hostacc => decodeHostacc (BitVec.ofNat 72 c.bits)
    | .cmd => .ok (decodeCmd (BitVec.ofNat 64 c.bits))
    | .dsel => decodeDsel (BitVec.ofNat 4 c.bits)
    | .phase => .ok (decodePhase (BitVec.ofNat 4 c.bits))
    | .fmix => .ok (decodeFmix (BitVec.ofNat 2 c.bits))
  else .error .tooWide

/-! ### The encoder -/

/-- The 72-bit word of a host write: `1 || offset || value` (R70). -/
def encodeWr (offset : BitVec 7) (value : U64) : BitVec 72 := (1#1 ++ offset ++ value : BitVec (1 + 7 + 64))

/-- The 72-bit word of a host read: `0 || offset || 0` (R70). -/
def encodeRd (offset : BitVec 7) : BitVec 72 := (0#1 ++ offset ++ 0#64 : BitVec (1 + 7 + 64))

/-- The command word with its reserved bits zero (R61). -/
def encodeCmd (op secretEn ovrEn inNull : Bool) : U64 :=
  (0#60 ++ BitVec.ofBool inNull ++ BitVec.ofBool ovrEn ++ BitVec.ofBool secretEn ++ BitVec.ofBool op
    : BitVec (60 + 1 + 1 + 1 + 1))

/-- The code of an operation; an ignored bit is zero. -/
def encode : Instr → Code
  | .wr offset value => ⟨.hostacc, (encodeWr offset value).toNat⟩
  | .rd offset => ⟨.hostacc, (encodeRd offset).toNat⟩
  | .hash secretEn ovrEn inNull => ⟨.cmd, (encodeCmd false secretEn ovrEn inNull).toNat⟩
  | .hashHex secretEn ovrEn inNull => ⟨.cmd, (encodeCmd true secretEn ovrEn inNull).toNat⟩
  | .len0 => ⟨.dsel, 0b0000⟩
  | .len1_3 => ⟨.dsel, 0b0001⟩
  | .len4_8 => ⟨.dsel, 0b0010⟩
  | .len9_16 => ⟨.dsel, 0b0011⟩
  | .len17_128 => ⟨.dsel, 0b0100⟩
  | .len129_240 => ⟨.dsel, 0b0101⟩
  | .long => ⟨.dsel, 0b0110⟩
  | .longOvr => ⟨.dsel, 0b1110⟩
  | .idle => ⟨.phase, 0⟩
  | .check => ⟨.phase, 1⟩
  | .dispatch => ⟨.phase, 2⟩
  | .short => ⟨.phase, 3⟩
  | .seedmix => ⟨.phase, 4⟩
  | .ovrWait => ⟨.phase, 5⟩
  | .accInit => ⟨.phase, 6⟩
  | .stripe => ⟨.phase, 7⟩
  | .scramble => ⟨.phase, 8⟩
  | .tail => ⟨.phase, 9⟩
  | .last => ⟨.phase, 10⟩
  | .merge => ⟨.phase, 11⟩
  | .final => ⟨.phase, 12⟩
  | .format => ⟨.phase, 13⟩
  | .done => ⟨.phase, 14⟩
  | .err => ⟨.phase, 15⟩
  | .aval64 => ⟨.fmix, 0⟩
  | .rrmxmx => ⟨.fmix, 1⟩
  | .aval3 => ⟨.fmix, 2⟩
  | .bypass => ⟨.fmix, 3⟩

/-! ### The opcode table -/

/-- The match value and the mask of an operation's row of `opcode_table.json`, as the table prints them. -/
def Instr.tableRow : Instr → Nat × Nat
  | .wr _ _ => (0x800000000000000000, 0x800000000000000000)
  | .rd _ => (0x0, 0x800000000000000000)
  | .hash _ _ _ => (0x0, 0x1)
  | .hashHex _ _ _ => (0x1, 0x1)
  | .len0 => (0x0, 0x7)
  | .len1_3 => (0x1, 0x7)
  | .len4_8 => (0x2, 0x7)
  | .len9_16 => (0x3, 0x7)
  | .len17_128 => (0x4, 0x7)
  | .len129_240 => (0x5, 0x7)
  | .long => (0x6, 0xF)
  | .longOvr => (0xE, 0xF)
  | .idle => (0x0, 0xF)
  | .check => (0x1, 0xF)
  | .dispatch => (0x2, 0xF)
  | .short => (0x3, 0xF)
  | .seedmix => (0x4, 0xF)
  | .ovrWait => (0x5, 0xF)
  | .accInit => (0x6, 0xF)
  | .stripe => (0x7, 0xF)
  | .scramble => (0x8, 0xF)
  | .tail => (0x9, 0xF)
  | .last => (0xA, 0xF)
  | .merge => (0xB, 0xF)
  | .final => (0xC, 0xF)
  | .format => (0xD, 0xF)
  | .done => (0xE, 0xF)
  | .err => (0xF, 0xF)
  | .aval64 => (0x0, 0x3)
  | .rrmxmx => (0x1, 0x3)
  | .aval3 => (0x2, 0x3)
  | .bypass => (0x3, 0x3)

/-! ### The host's reading of a table word -/

/-- The format in which a table word of `nbits` bits is read (log entry 12): 72 bits are a host access, 64 a command
word, 4 bits (one byte when rounded up) the sequencer's phase, 2 bits a final-mixer code. The three narrow formats share
their code points and a word does not say its format; `PHASE` is what the sequencer steps by. -/
def tableFormat (nbits : Nat) : Option Format :=
  match nbits with
  | 72 => some .hostacc
  | 64 => some .cmd
  | 8 => some .phase
  | 4 => some .phase
  | 2 => some .fmix
  | _ => none

/-- The operation the decoder reads from a table word. -/
def decodeTableWord (nbits w : Nat) : Option Instr :=
  match tableFormat nbits with
  | none => none
  | some fmt =>
    match decode ⟨fmt, w⟩ with
    | .ok i => some i
    | .error _ => none

end Sys2Proof
end

