-- ==== Sys2Proof/Machine/State.lean ====
section
/-! DEFINITION. The architectural state (`10_state.md` rule R21), the outside world's moves, the reasons a step can stop,
and the state after reset (rule R36). All of it is plain data. -/

namespace Sys2Proof.Machine

/-- A byte memory (`10_state.md` rule R32): offsets strictly rising, no entry of value 0, an unlisted byte reads as 0
(DESIGN CHOICE, log entry 3). -/
abbrev Memory := List Host.Cell

/-- The two defined values of `CMD.OP` (`30_encoding.md` rule R61). -/
inductive Op where
  | hash
  | hashHex
  deriving DecidableEq, Repr

/-- The four defined bits of `CMD` (`30_encoding.md` rule R61). -/
structure CmdReg where
  op : Op
  secretEn : Bool
  ovrEn : Bool
  inNull : Bool
  deriving DecidableEq, Repr

/-- The latched request `REQ` (`10_state.md` rule R28). -/
structure Request where
  op : Op
  secretEn : Bool
  ovrEn : Bool
  inNull : Bool
  seed : U64
  /-- `L`, the input length in bytes. -/
  len : U64
  /-- `S_custom`, the length in bytes of the custom secret. -/
  secretLen : U64
  deriving DecidableEq, Repr

/-- `STATUS.ERR` (`30_encoding.md` rule R63): three values, so that code 3 cannot be represented. -/
inductive ErrCode where
  | none
  | invalidSecret
  | invalidInput
  deriving DecidableEq, Repr

/-- The seven buckets of the dispatcher (`30_encoding.md` rule R64). -/
inductive Bucket where
  | len0
  | len1_3
  | len4_8
  | len9_16
  | len17_128
  | len129_240
  | long
  deriving DecidableEq, Repr

/-- The stored fields of `STATUS` (`10_state.md` rule R23). `STATE` is a function of the phase (rule R27); `BUCKET`
is `none` for the code 7. -/
structure Status where
  err : ErrCode
  bucket : Option Bucket
  ovrUsed : Bool
  hexValid : Bool
  deriving DecidableEq, Repr

/-- `SEQ.PHASE` (`10_state.md` rule R27, `30_encoding.md` rule R65). -/
inductive Phase where
  | idle
  | check
  | dispatch
  | short
  | seedmix
  | ovrWait
  | accInit
  | stripe
  | scramble
  | tail
  | last
  | merge
  | final
  | format
  | done
  | err
  deriving DecidableEq, Repr

/-- The sequencer `SEQ` (`10_state.md` rule R27). -/
structure Sequencer where
  phase : Phase
  /-- Secret blocks already consumed. -/
  blk : U64
  /-- Stripes already consumed inside the current block. -/
  str : U64
  deriving DecidableEq, Repr

/-- The address spaces a secret can be read from (`20_memory.md` rule R40). -/
inductive SecretSpace where
  | ksecret
  | sec
  | esec
  deriving DecidableEq, Repr

/-- A secret in use: bytes `0 .. len-1` of a space. A view is read access, not a copy (`30_encoding.md` rule R68, log
entry 8). -/
structure SecretView where
  space : SecretSpace
  len : Nat
  deriving DecidableEq, Repr

/-- The pending override request `OVR` (`10_state.md` rule R33, `30_encoding.md` rule R68): the input view
`IN[0 .. len)`, the seed, the effective secret view. -/
structure OvrRequest where
  len : U64
  seed : U64
  secret : SecretView
  deriving DecidableEq, Repr

/-- The widths of a host write narrower than 64 bits (`10_state.md` rule R22). DESIGN CHOICE: 8, 16 and 32 bits and no
others, where R22 lists none (log entry 19). -/
inductive Narrow where
  | bits8
  | bits16
  | bits32
  deriving DecidableEq, Repr

/-- One move of the outside world (`10_state.md` rule R20; log entry 5). -/
inductive Input where
  /-- The datapath takes one step before the next move. -/
  | datapath
  /-- The host performs the register access a 72-bit word spells (`30_encoding.md` rule R60). -/
  | access (word : BitVec 72)
  /-- The host writes a command word to `CMD` (`30_encoding.md` rule R61). -/
  | command (word : U64)
  /-- A host write narrower than 64 bits (`10_state.md` rule R22): the low bits of `value`. -/
  | writeNarrow (offset : BitVec 7) (width : Narrow) (value : U64)
  /-- A host read of one byte of the register window (`20_memory.md` rule R41). -/
  | readByte (offset : BitVec 6)
  /-- `LDIN bytes` (`30_encoding.md` rule R70). -/
  | ldin (bytes : List Byte)
  /-- `LDSEC bytes` (`30_encoding.md` rule R70). -/
  | ldsec (bytes : List Byte)
  /-- `POLL` (`30_encoding.md` rule R70). -/
  | poll
  /-- The override unit answers (`30_encoding.md` rule R68). -/
  | answer (value : U64)
  /-- Reset is applied (`70_reset_and_hazards.md` rule R170). -/
  | reset
  deriving DecidableEq, Repr

/-- Why the machine stops. Each is raised by an access the spec says does not exist, and each is safe: nothing can be
proved of what the hardware does there. -/
inductive Fault where
  /-- Raised by `step` on a code that is no operation (a host access word with an unlisted offset, a read with value
  bits). Safe. -/
  | undecodable (e : DecodeError)
  /-- Raised by `execWr` and `execRd` on a term that is not well formed, and by a narrow write past the window: the
  access reaches an offset that does not exist (`20_memory.md` rule R40). Safe. -/
  | noSuchRegister
  deriving DecidableEq, Repr

/-- What the model gives no meaning to. -/
inductive Refusal where
  /-- Raised by `exec` on an instruction that has no meaning yet. Safe. -/
  | notModelled (mnemonic : String)
  /-- Raised by `LDIN` and `LDSEC` on a write into a buffer the running call may read (`70_reset_and_hazards.md`
  rule R173: "refused action"). Safe. -/
  | bufferInUse
  /-- Raised by a command with `SECRET_EN = 1` and `SECRET_LEN > SECRET_MAX`, and by `LDSEC` of more than `SECRET_MAX`
  bytes (`10_state.md` rule R22: "cannot be backed by `SEC` and is refused by the model"). Safe. -/
  | secretTooLong
  deriving DecidableEq, Repr

/-- The state of one instance (`10_state.md` rule R21), and the model's own fields after it. -/
structure State where
  /-- `CMD` (R22): the defined bits of the command word last accepted (log entry 17). -/
  cmd : CmdReg
  /-- `SEED` (R22). -/
  seed : U64
  /-- `LEN` (R22). -/
  len : U64
  /-- `SECRET_LEN` (R22). -/
  secretLen : U64
  /-- `REQ` (R28). -/
  req : Request
  /-- `STATUS` (R23). -/
  status : Status
  /-- `RESULT` (R24). -/
  result : U64
  /-- `HEX` (R25): character `k` in element `k`. -/
  hex : Vector Byte 16
  /-- `ACC[0..7]` (R26). -/
  acc : Vector U64 8
  /-- `PRE` (R35). -/
  pre : U64
  /-- `SEQ` (R27). -/
  seq : Sequencer
  /-- `IN` (R32). -/
  inMem : Memory
  /-- `SEC` (R32). -/
  secMem : Memory
  /-- `ESEC` (R32). -/
  esecMem : Memory
  /-- `OVR` (R33). -/
  ovr : Option OvrRequest
  /-- The model's own: the override unit's answer, waiting at the port (log entry 7). -/
  answer : Option U64
  /-- The model's own: what the last host read returned (log entry 6). -/
  rdata : U64
  /-- The model's own: how many free values have been drawn (log entry 4). -/
  draws : Nat
  /-- The model's own: the outside world's coming moves, the next one first (log entry 5). -/
  inputs : List Input
  /-- The model's own: the parameters, which no step changes (log entry 1). -/
  cfg : Config
  deriving DecidableEq, Repr

/-- The state after reset (`10_state.md` rule R36). Of `CMD`'s stored bits, `REQ`, `RESULT`, `HEX`, `ACC`, `PRE`, the
three memories and the model's own fields the spec gives no value: those are DESIGN CHOICE (log entries 1 to 7, 17). -/
def State.reset : State where
  cmd := { op := .hash, secretEn := false, ovrEn := false, inNull := false }
  seed := 0
  len := 0
  secretLen := 0
  req :=
    { op := .hash, secretEn := false, ovrEn := false, inNull := false, seed := 0, len := 0, secretLen := 0 }
  status := { err := .none, bucket := none, ovrUsed := false, hexValid := false }
  result := 0
  hex := Vector.replicate 16 0
  acc := Vector.replicate 8 0
  pre := 0
  seq := { phase := .idle, blk := 0, str := 0 }
  inMem := []
  secMem := []
  esecMem := []
  ovr := none
  answer := none
  rdata := 0
  draws := 0
  inputs := []
  cfg := Config.default

end Sys2Proof.Machine
end

