-- ==== Sys2Proof/Machine/Flags.lean ====
section
/-! DEFINITION. The phase codes and the status word: every flag the block has (`10_state.md` rules R23, R27,
`30_encoding.md` rules R62 to R65). -/

namespace Sys2Proof.Machine

/-- The 4-bit code of a phase (`30_encoding.md` rule R65). -/
def Phase.code : Phase → Nat
  | .idle => 0
  | .check => 1
  | .dispatch => 2
  | .short => 3
  | .seedmix => 4
  | .ovrWait => 5
  | .accInit => 6
  | .stripe => 7
  | .scramble => 8
  | .tail => 9
  | .last => 10
  | .merge => 11
  | .final => 12
  | .format => 13
  | .done => 14
  | .err => 15

/-- The phase a 4-bit code names (`30_encoding.md` rule R65). -/
def Phase.ofCode (code : Nat) : Phase :=
  match code with
  | 0 => .idle
  | 1 => .check
  | 2 => .dispatch
  | 3 => .short
  | 4 => .seedmix
  | 5 => .ovrWait
  | 6 => .accInit
  | 7 => .stripe
  | 8 => .scramble
  | 9 => .tail
  | 10 => .last
  | 11 => .merge
  | 12 => .final
  | 13 => .format
  | 14 => .done
  | _ => .err

/-- A call is running: `STATUS.STATE` is neither IDLE nor DONE nor ERR (`10_state.md` rule R27). -/
def Phase.busy : Phase → Bool
  | .idle | .done | .err => false
  | .check | .dispatch | .short | .seedmix | .ovrWait | .accInit | .stripe | .scramble | .tail | .last | .merge
  | .final | .format => true

/-- `STATUS.STATE` (`10_state.md` rule R27, codes of `30_encoding.md` rule R62): 0 IDLE, 1 BUSY, 2 DONE, 3 ERR. -/
def Phase.stateCode (p : Phase) : BitVec 2 :=
  match p with
  | .idle => 0
  | .done => 2
  | .err => 3
  | .check | .dispatch | .short | .seedmix | .ovrWait | .accInit | .stripe | .scramble | .tail | .last | .merge
  | .final | .format => 1

/-- `STATUS.ERR` codes (`30_encoding.md` rule R63). -/
def ErrCode.code : ErrCode → BitVec 2
  | .none => 0
  | .invalidSecret => 1
  | .invalidInput => 2

/-- Bucket codes (`30_encoding.md` rule R64). -/
def Bucket.code : Bucket → BitVec 3
  | .len0 => 0
  | .len1_3 => 1
  | .len4_8 => 2
  | .len9_16 => 3
  | .len17_128 => 4
  | .len129_240 => 5
  | .long => 6

/-- `STATUS.BUCKET`: 7 when no bucket was chosen (`30_encoding.md` rule R62). -/
def bucketField : Option Bucket → BitVec 3
  | none => 7
  | some b => b.code

/-- The status word (`30_encoding.md` rule R62), its reserved bits zero. -/
def statusWord (s : State) : U64 :=
  (0#55 ++ BitVec.ofBool s.status.hexValid ++ BitVec.ofBool s.status.ovrUsed ++ bucketField s.status.bucket
    ++ s.status.err.code ++ s.seq.phase.stateCode : BitVec (55 + 1 + 1 + 3 + 2 + 2))

end Sys2Proof.Machine
end

