-- ==== Sys2Proof/Machine/Operands.lean ====
section
/-! DEFINITION. The operands of the operations (`30_encoding.md` rule R69): registers by offset, the command word's bits,
the bucket, the secret a call uses, the loop geometry. -/

namespace Sys2Proof.Machine

/-! ### Registers and the command word -/

/-- The registers of the host window (`20_memory.md` rule R40); `hex k` is `HEX` reached at its character `k`. -/
inductive Reg where
  | cmd
  | status
  | seed
  | len
  | secretLen
  | result
  | hex (k : Nat)
  deriving DecidableEq, Repr

/-- The register at an offset; offsets not listed do not exist (`20_memory.md` rule R40). Every offset
`0x30 .. 0x3F` is one of `HEX`'s. -/
def Reg.ofOffset (offset : BitVec 7) : Option Reg :=
  match offset.toNat with
  | 0x00 => some .cmd
  | 0x08 => some .status
  | 0x10 => some .seed
  | 0x18 => some .len
  | 0x20 => some .secretLen
  | 0x28 => some .result
  | n => if 0x30 ≤ n ∧ n ≤ 0x3F then some (.hex (n - 0x30)) else none

/-- The register a 64-bit read at an offset reads; its eight bytes must lie in the window of `0x40` bytes
(`20_memory.md` rule R40). -/
def Reg.ofReadOffset (offset : BitVec 7) : Option Reg :=
  if offset.toNat + 8 ≤ 0x40 then Reg.ofOffset offset else none

/-- The register that holds a byte of the window: byte `k` of a register is at offset `reg + k` (`20_memory.md` rule
R41), and the window is fully assigned (`30_encoding.md` rule R66). -/
def Reg.ofByte (offset : BitVec 6) : Reg :=
  match offset.toNat / 8 with
  | 0 => .cmd
  | 1 => .status
  | 2 => .seed
  | 3 => .len
  | 4 => .secretLen
  | 5 => .result
  | 6 => .hex 0
  | _ => .hex 8

/-- The defined bits of a command word (`30_encoding.md` rule R61); bits 63:4 are ignored (rule R66). -/
def CmdReg.ofWord (w : U64) : CmdReg where
  op := if w.getLsbD 0 then .hashHex else .hash
  secretEn := w.getLsbD 1
  ovrEn := w.getLsbD 2
  inNull := w.getLsbD 3

/-- The width in bits of a narrow write. -/
def Narrow.bits : Narrow → Nat
  | .bits8 => 8
  | .bits16 => 16
  | .bits32 => 32

/-- A narrow value, zero-extended to 64 bits (`10_state.md` rule R22). -/
def Narrow.extend (w : Narrow) (value : U64) : U64 := BitVec.ofNat 64 (value.toNat % 2 ^ w.bits)

/-! ### The dispatcher's selection -/

/-- `Bucket(L)` (`40_dispatch.md` rule R78). -/
def bucketOf (len : Nat) : Bucket :=
  if len = 0 then .len0
  else if len ≤ 3 then .len1_3
  else if len ≤ 8 then .len4_8
  else if len ≤ 16 then .len9_16
  else if len ≤ 128 then .len17_128
  else if len ≤ 240 then .len129_240
  else .long

/-- The bucket of the latched request. -/
def Request.bucket (r : Request) : Bucket := bucketOf r.len.toNat

/-! ### The secret of a call -/

/-- The default table as a secret (`10_state.md` rule R29). -/
def defaultSecret : SecretView := { space := .ksecret, len := secretDefaultLen }

/-- The custom secret as a secret: `SEC[0 .. S_custom)`. -/
def Request.customSecret (r : Request) : SecretView := { space := .sec, len := r.secretLen.toNat }

/-- The secret in use (`43_seedmixer.md` rule R127). -/
def Request.secretInUse (r : Request) : SecretView := if r.secretEn then r.customSecret else defaultSecret

/-- `ShortSecret(REQ)` (`40_dispatch.md` rule R79). -/
def Request.shortSecret (r : Request) : SecretView := if r.seed = 0 then r.secretInUse else defaultSecret

/-- `mix` of the transition table (`40_dispatch.md` rule R84): the seed is not 0 and the policy of
`43_seedmixer.md` rule R129 calls for a derivation. -/
def Request.mix (cfg : Config) (r : Request) : Bool :=
  if r.seed = 0 then false
  else if r.secretEn then cfg.policy != .canonSecretAndSeed
  else true

/-- The source of SEEDMIX (`43_seedmixer.md` rules R127, R129). -/
def Request.mixSource (cfg : Config) (r : Request) : SecretView :=
  if cfg.policy = .canonSeedOnly then defaultSecret else r.secretInUse

/-- `E`, the effective secret of a long call (`43_seedmixer.md` rules R127, R129). -/
def Request.effectiveSecret (cfg : Config) (r : Request) : SecretView :=
  if r.mix cfg then { space := .esec, len := (r.mixSource cfg).len } else r.secretInUse

/-! ### The geometry of a long call -/

/-- The loop counts of a long call (`42_long.md` rule R105). -/
structure Geometry where
  /-- `NSPB`, stripes per secret block. -/
  nspb : Nat
  /-- `BLKLEN`, input bytes per secret block. -/
  blkLen : Nat
  /-- `NBLK`, whole blocks. -/
  nblk : Nat
  /-- `NST`, whole stripes after the last whole block. -/
  nst : Nat
  deriving DecidableEq, Repr

/-- The geometry of an input of `len` bytes under a secret of `secretLen` bytes (`42_long.md` rule R105). -/
def geometry (len secretLen : Nat) : Geometry :=
  let nspb := (secretLen - 64) / secretConsume
  let blkLen := stripeLen * nspb
  let nblk := (len - 1) / blkLen
  { nspb, blkLen, nblk, nst := (len - 1 - blkLen * nblk) / stripeLen }

/-- The geometry of the latched request. -/
def Request.geometry (cfg : Config) (r : Request) : Geometry :=
  Machine.geometry r.len.toNat (r.effectiveSecret cfg).len

end Sys2Proof.Machine
end

