-- ==== Sys2Proof/Machine/Ops.lean ====
section
/-! DEFINITION. The named operations over memory, registers and the sequencer that the meanings share: reading and filling
a memory, host reads, starting a call, taking an error and leaving it, ending a call, the override port. -/

namespace Sys2Proof.Machine

/-! ### Memories -/

/-- One byte of a memory; an unlisted byte is 0 (log entry 3). -/
def Memory.read : Memory → Nat → Byte
  | [], _ => 0
  | (a, v) :: rest, off => if a = off then v else Memory.read rest off

/-- The cells that hold `bytes` from offset `off` on: the zero bytes are not listed. -/
def Memory.cells : List Byte → Nat → Memory
  | [], _ => []
  | v :: rest, off => if v = 0 then Memory.cells rest (off + 1) else (off, v) :: Memory.cells rest (off + 1)

/-- `M[0 .. n) <- bytes` for `n` bytes (`30_encoding.md` rule R70, `43_seedmixer.md` rule R126); bytes at `n` and above
stay. -/
def Memory.fill (m : Memory) (bytes : List Byte) : Memory :=
  Memory.cells bytes 0 ++ m.filter fun c => decide (bytes.length ≤ c.1)

/-- The canonical form: offsets strictly rising, no entry equal to what an unlisted offset reads as. -/
abbrev Memory.wf (m : Memory) : Prop := m.Pairwise (fun a b => a.1 < b.1) ∧ ∀ c ∈ m, c.2 ≠ 0

/-- The first `n` bytes of a byte sequence. -/
def firstBytes (b : Bytes) (n : Nat) : List Byte := (List.range n).map b

/-- The input as the datapath reads it. -/
def State.input (s : State) : Bytes := s.inMem.read

/-- The bytes of a secret space. -/
def State.space (s : State) : SecretSpace → Bytes
  | .ksecret => ksecret
  | .sec => s.secMem.read
  | .esec => s.esecMem.read

/-- The secret of a short call, as bytes (`40_dispatch.md` rule R79). -/
def State.shortSecret (s : State) : Bytes := s.space s.req.shortSecret.space

/-- The effective secret of a long call, as bytes (`43_seedmixer.md` rule R127). -/
def State.effectiveSecret (s : State) : Bytes := s.space (s.req.effectiveSecret s.cfg).space

/-- `S`, the length of the effective secret. -/
def State.effectiveLen (s : State) : Nat := (s.req.effectiveSecret s.cfg).len

/-- The loop counts of the running call. -/
def State.geometry (s : State) : Geometry := s.req.geometry s.cfg

/-! ### The sequencer -/

/-- `SEQ <- p` (`00_scope.md` rule R5). -/
def State.goto (s : State) (p : Phase) : State := { s with seq := { s.seq with phase := p } }

/-- `PRE <- v`, then the final mixer (`40_dispatch.md` rule R84, rows SHORT and MERGE). -/
def State.handOver (s : State) (v : U64) : State := { s with pre := v }.goto .final

/-- Where a call goes once `RESULT` is written (`40_dispatch.md` rule R84). -/
def State.afterResult (s : State) : Phase :=
  match s.req.op with
  | .hashHex => .format
  | .hash => .done

/-- `RESULT <- v`, then FORMAT or DONE (`40_dispatch.md` rule R84, row FINAL). DESIGN CHOICE: what else the call wrote
(`ACC`, `PRE`, `ESEC`, `REQ`, `BLK`, `STR`) stays, where the spec leaves it unspecified (`40_dispatch.md` rule R85; log
entry 24). -/
def State.deliver (s : State) (v : U64) : State := { s with result := v }.goto s.afterResult

/-! ### Starting a call, errors -/

/-- `REQ` as latched at the start of a call (`10_state.md` rule R28). -/
def State.latched (s : State) : Request where
  op := s.cmd.op
  secretEn := s.cmd.secretEn
  ovrEn := s.cmd.ovrEn
  inNull := s.cmd.inNull
  seed := s.seed
  len := s.len
  secretLen := s.secretLen

/-- The first row of the transition table (`40_dispatch.md` rule R84): latch `REQ`, clear the flags, go to CHECK. It
is also the only way out of the error state (`60_exceptions.md` rule R155). -/
def State.startCall (s : State) : State :=
  { s with
    req := s.latched
    status := { err := .none, bucket := none, ovrUsed := false, hexValid := false } }.goto .check

/-- A host write of `CMD` (`10_state.md` rule R22): ignored while a call runs (`70_reset_and_hazards.md` rule R174);
refused when the custom secret cannot be backed by `SEC` (`10_state.md` rule R22); else the start of a call. -/
def State.commandWrite (s : State) (c : CmdReg) : Host.Outcome State Fault Refusal :=
  if s.seq.phase.busy then .next s
  else if c.secretEn && decide (s.cfg.secretMax < s.secretLen.toNat) then .refused .secretTooLong
  else .next { s with cmd := c }.startCall

/-- Taking an error (`60_exceptions.md` rule R154): the code is recorded and the phase becomes ERR; nothing is saved and
nothing else is written. -/
def State.raise (s : State) (e : ErrCode) : State := { s with status := { s.status with err := e } }.goto .err

/-! ### Host reads and writes of the register window -/

/-- A free value: nothing is known of it, and the next draw is another (`93_implementation_defined.md` U1). -/
def State.draw (s : State) : U64 × State := (Config.freeValue s.draws, { s with draws := s.draws + 1 })

/-- The characters of `HEX` by number. -/
def hexBytes (hex : Vector Byte 16) : Bytes := fun k => hex[k]?.getD 0

/-- What a host read of a register returns (`10_state.md` rules R22 to R25, `45_formatter.md` rule R145). `RESULT` and
`HEX` read early are free values (`70_reset_and_hazards.md` rule R179). -/
def State.hostRead (s : State) : Reg → U64 × State
  | .cmd => (0, s)
  | .status => (statusWord s, s)
  | .seed => (s.seed, s)
  | .len => (s.len, s)
  | .secretLen => (s.secretLen, s)
  | .result => if s.seq.phase = .done then (s.result, s) else s.draw
  | .hex k => if s.seq.phase = .done ∧ s.status.hexValid = true then (le64 (hexBytes s.hex) k, s) else s.draw

/-- A host write of a register (`10_state.md` rule R22, `30_encoding.md` rule R66): the read-only ones ignore it. -/
def State.hostWrite (s : State) (v : U64) : Reg → Host.Outcome State Fault Refusal
  | .cmd => s.commandWrite (CmdReg.ofWord v)
  | .seed => .next { s with seed := v }
  | .len => .next { s with len := v }
  | .secretLen => .next { s with secretLen := v }
  | .status | .result | .hex _ => .next s

/-! ### The override port -/

/-- `OVR <- request` (`40_dispatch.md` rules R81, R84): the unit is shown the input, the seed and the effective secret. -/
def State.issueOverride (s : State) : State :=
  { s with
    ovr := some { len := s.req.len, seed := s.req.seed, secret := s.req.effectiveSecret s.cfg } }.goto .ovrWait

/-- The unit answers `v` (`40_dispatch.md` rule R84): `RESULT <- v`, no final mixer. -/
def State.acceptAnswer (s : State) (v : U64) : State :=
  { s with
    status := { s.status with ovrUsed := true }
    ovr := none
    answer := none }.deliver v

/-- With a request pending and an answer at the port, the answer is the result; otherwise the call waits
(`60_exceptions.md` rule R165). -/
def State.takeAnswer (s : State) : State :=
  match s.ovr, s.answer with
  | some _, some v => s.acceptAnswer v
  | some _, none => s
  | none, _ => s

/-- `OVR_CALL` (`40_dispatch.md` rule R81): issue the request, then wait for the answer. -/
def State.overrideCall (s : State) : State :=
  match s.ovr with
  | none => s.issueOverride
  | some _ => s.takeAnswer

end Sys2Proof.Machine
end

