-- ==== Sys2Proof/Machine/Formatter.lean ====
section
/-! DEFINITION. The Formatter (`45_formatter.md`): the hexadecimal rendering of the result, phase FORMAT. -/

namespace Sys2Proof.Machine

/-- `DIGIT(nib)` (R146): the character code of one hexadecimal digit. -/
def digit (nib : Byte) : Byte := if nib < 10 then 0x30 + nib else 0x61 + (nib - 10)

/-- `HEXFMT(v)` (R145): character 0 is the most significant digit. -/
def hexFmt (v : U64) : Vector Byte 16 :=
  Vector.ofFn fun k => digit (((v >>> (60 - 4 * k.val)) &&& 0xF).setWidth 8)

/-- Phase FORMAT (R145): `HEX <- HEXFMT(RESULT)`, `HEX_VALID <- 1`. -/
def execFormat (s : State) : Host.Outcome State Fault Refusal :=
  .next ({ s with hex := hexFmt s.result, status := { s.status with hexValid := true } }.goto .done)

end Sys2Proof.Machine
end

