-- ==== Sys2Proof/Machine/Host.lean ====
section
/-! DEFINITION. The host accesses `WR` and `RD` (`30_encoding.md` rule R60) and the two commands `HASH` and `HASH_HEX`
(`40_dispatch.md` rules R75, R76). -/

namespace Sys2Proof.Machine

/-- `WR` (R60): a 64-bit write of the register at `offset`. -/
def execWr (offset : BitVec 7) (value : U64) (s : State) : Host.Outcome State Fault Refusal :=
  match Reg.ofOffset offset with
  | none => .fault .noSuchRegister
  | some r => s.hostWrite value r

/-- `RD` (R60): a 64-bit read of the register at `offset`; the value stands at the read port afterwards. -/
def execRd (offset : BitVec 7) (s : State) : Host.Outcome State Fault Refusal :=
  match Reg.ofReadOffset offset with
  | none => .fault .noSuchRegister
  | some r => .next { (s.hostRead r).2 with rdata := (s.hostRead r).1 }

/-- `HASH` (R75): a command with `OP = 0`. The call then runs phase by phase (R84). -/
def execHash (secretEn ovrEn inNull : Bool) (s : State) : Host.Outcome State Fault Refusal :=
  s.commandWrite { op := .hash, secretEn, ovrEn, inNull }

/-- `HASH_HEX` (R76): a command with `OP = 1`. -/
def execHashHex (secretEn ovrEn inNull : Bool) (s : State) : Host.Outcome State Fault Refusal :=
  s.commandWrite { op := .hashHex, secretEn, ovrEn, inNull }

end Sys2Proof.Machine
end

