-- ==== Sys2Proof/Machine/SeedMixer.lean ====
section
/-! DEFINITION. The SeedMixer (`43_seedmixer.md`): the derivation of the effective secret, phase SEEDMIX. -/

namespace Sys2Proof.Machine

/-- Lane `j` of the derived secret (R126): the seed is added to even lanes and subtracted from odd ones. -/
def seedLane (src : Bytes) (seed : U64) (j : Nat) : U64 :=
  if j % 2 = 0 then add64 (le64 src (8 * j)) seed else sub64 (le64 src (8 * j)) seed

/-- `SEEDMIX(src, S, seed)` (R126): the whole lanes, then the trailing bytes unchanged. -/
def seedMixBytes (src : Bytes) (secretLen : Nat) (seed : U64) : List Byte :=
  (List.range (secretLen / 8)).flatMap (fun j => leBytes (seedLane src seed j)) ++
    (List.range (secretLen % 8)).map fun k => src (8 * (secretLen / 8) + k)

/-- Phase SEEDMIX (R126; transition table `40_dispatch.md` R84): `ESEC[0 .. S) <- SEEDMIX(...)`. -/
def execSeedmix (s : State) : Host.Outcome State Fault Refusal :=
  let source := s.req.mixSource s.cfg
  .next ({ s with esecMem := s.esecMem.fill (seedMixBytes (s.space source.space) source.len s.req.seed) }.goto
    (if s.req.ovrEn then .ovrWait else .accInit))

end Sys2Proof.Machine
end

