-- ==== Sys2Proof/Machine/Sequencing.lean ====
section
/-! DEFINITION. The phases that compute no hash value (`40_dispatch.md` rule R84): waiting for a command, the error check,
the length dispatcher, the override wait. -/

namespace Sys2Proof.Machine

/-- Phase IDLE (R84): no operation; the block waits for a command. -/
def execIdle (s : State) : Host.Outcome State Fault Refusal := .next s

/-- Phase DONE (R85): no operation; the result stays readable. -/
def execDone (s : State) : Host.Outcome State Fault Refusal := .next s

/-- Phase ERR (`60_exceptions.md` rule R155): no operation; the error stays readable. -/
def execErr (s : State) : Host.Outcome State Fault Refusal := .next s

/-- Phase CHECK (`60_exceptions.md` rule R153): `InvalidSecret` first, then `InvalidInput`. -/
def execCheck (s : State) : Host.Outcome State Fault Refusal :=
  if s.req.secretEn && decide (s.req.secretLen.toNat < secretMin) then .next (s.raise .invalidSecret)
  else if s.req.inNull then .next (s.raise .invalidInput)
  else .next (s.goto .dispatch)

/-- Where the dispatcher sends a call (R84). -/
def State.dispatchTarget (s : State) : Phase :=
  match s.req.bucket with
  | .long => if s.req.mix s.cfg then .seedmix else if s.req.ovrEn then .ovrWait else .accInit
  | .len0 | .len1_3 | .len4_8 | .len9_16 | .len17_128 | .len129_240 => .short

/-- Phase DISPATCH (R78, R84): `STATUS.BUCKET <- Bucket(L)`. -/
def execDispatch (s : State) : Host.Outcome State Fault Refusal :=
  .next ({ s with status := { s.status with bucket := some s.req.bucket } }.goto s.dispatchTarget)

/-- Phase OVR_WAIT (R81, R84): issue the override request, then wait for the answer. -/
def execOvrWait (s : State) : Host.Outcome State Fault Refusal := .next s.overrideCall

end Sys2Proof.Machine
end

