-- ==== Sys2Proof/Machine/Finalizer.lean ====
section
/-! DEFINITION. The Finalizer (`44_finalizer.md`): three final mixers and the bypass, the rows of format `FMIX`. -/

namespace Sys2Proof.Machine

/-- `AVAL64` (R135). -/
def aval64 (h : U64) : U64 :=
  let h := xorShift h 33
  let h := mul64 h PRIME64_2
  let h := xorShift h 29
  let h := mul64 h PRIME64_3
  xorShift h 32

/-- `AVAL3` (R136). -/
def aval3 (h : U64) : U64 :=
  let h := xorShift h 37
  let h := mul64 h PRIME_MX1
  xorShift h 32

/-- `RRMXMX` (R137); `n` is the input length. -/
def rrmxmx (h n : U64) : U64 :=
  let h := h ^^^ rotl64 h 49 ^^^ rotl64 h 24
  let h := mul64 h PRIME_MX2
  let h := h ^^^ add64 (h >>> 35) n
  let h := mul64 h PRIME_MX2
  xorShift h 28

/-- The four selections of format `FMIX` (`30_encoding.md` rule R67). -/
inductive Mixer where
  | aval64
  | rrmxmx
  | aval3
  | bypass
  deriving DecidableEq, Repr

/-- The final mixer of a call, a function of the bucket and the override bit (`30_encoding.md` rule R67,
`44_finalizer.md` rule R138). -/
def Request.mixer (r : Request) : Mixer :=
  match r.bucket with
  | .len0 | .len1_3 => .aval64
  | .len4_8 => .rrmxmx
  | .len9_16 | .len17_128 | .len129_240 => .aval3
  | .long => if r.ovrEn then .bypass else .aval3

/-- `AVAL64` as an operation: `RESULT <- AVAL64(PRE)`. -/
def execAval64 (s : State) : Host.Outcome State Fault Refusal := .next (s.deliver (aval64 s.pre))

/-- `RRMXMX` as an operation: `RESULT <- RRMXMX(PRE, L)`. -/
def execRrmxmx (s : State) : Host.Outcome State Fault Refusal := .next (s.deliver (rrmxmx s.pre s.req.len))

/-- `AVAL3` as an operation: `RESULT <- AVAL3(PRE)`. -/
def execAval3 (s : State) : Host.Outcome State Fault Refusal := .next (s.deliver (aval3 s.pre))

/-- `BYPASS` (R139): no final mixer; the unit's answer is the result. -/
def execBypass (s : State) : Host.Outcome State Fault Refusal := .next s.takeAnswer

/-- Phase FINAL (R138): the mixer R67 selects. -/
def execFinal (s : State) : Host.Outcome State Fault Refusal :=
  match s.req.mixer with
  | .aval64 => execAval64 s
  | .rrmxmx => execRrmxmx s
  | .aval3 => execAval3 s
  | .bypass => execBypass s

end Sys2Proof.Machine
end

