-- ==== Sys2Proof/Machine/Long.lean ====
section
/-! DEFINITION. The LongHasher (`42_long.md`): the phases ACC_INIT, STRIPE, SCRAMBLE, TAIL, LAST, MERGE, and their
composition `LONG`. -/

namespace Sys2Proof.Machine

/-! ### The lane operations -/

/-- `ACCUMULATE(io, so)` (R107): all eight lanes from the old ones. -/
def accumulate (inp sec : Bytes) (io so : Nat) (acc : Vector U64 8) : Vector U64 8 :=
  Vector.ofFn fun i =>
    let d := fun k => le64 inp (io + 8 * k)
    let dk := d i.val ^^^ le64 sec (so + 8 * i.val)
    add64 (add64 acc[i] (d (i.val ^^^ 1))) (mul32 (dk.extractLsb' 0 32) (dk.extractLsb' 32 32))

/-- `SCRAMBLE` (R108) under a secret of `secretLen` bytes. -/
def scrambleLanes (sec : Bytes) (secretLen : Nat) (acc : Vector U64 8) : Vector U64 8 :=
  Vector.ofFn fun i =>
    mul64 (xorShift acc[i] 47 ^^^ le64 sec (secretLen - 64 + 8 * i.val)) (PRIME32_1.setWidth 64)

/-- One term of `MERGE` (R112): lanes `2j` and `2j+1`, each masked with its secret word. -/
def mergeTerm (sec : Bytes) (acc : Vector U64 8) (j : Fin 4) : U64 :=
  mulFold (acc[2 * j.val] ^^^ le64 sec (11 + 16 * j.val)) (acc[2 * j.val + 1] ^^^ le64 sec (11 + 16 * j.val + 8))

/-- `MERGE` (R112). -/
def mergeLanes (sec : Bytes) (len : U64) (acc : Vector U64 8) : U64 :=
  (List.finRange 4).foldl (fun r j => add64 r (mergeTerm sec acc j)) (mul64 len PRIME64_1)

/-- `count` stripes from input offset `base`, stripe `s` under the window at `8*s` (R109, R110). -/
def stripes (inp sec : Bytes) (base count : Nat) (acc : Vector U64 8) : Vector U64 8 :=
  (List.range count).foldl (fun a s => accumulate inp sec (base + stripeLen * s) (secretConsume * s) a) acc

/-- The first `count` whole blocks, each followed by a scramble (R109). -/
def blocks (inp sec : Bytes) (secretLen : Nat) (g : Geometry) (count : Nat) (acc : Vector U64 8) : Vector U64 8 :=
  (List.range count).foldl (fun a b => scrambleLanes sec secretLen (stripes inp sec (b * g.blkLen) g.nspb a)) acc

/-- The lanes after the last stripe of a long call (R106, R109, R110, R111). -/
def longLanes (inp sec : Bytes) (len : U64) (secretLen : Nat) : Vector U64 8 :=
  let g := geometry len.toNat secretLen
  let acc := blocks inp sec secretLen g g.nblk initialLanes
  let acc := stripes inp sec (g.nblk * g.blkLen) g.nst acc
  accumulate inp sec (len.toNat - 64) (secretLen - 71) acc

/-- `LongPre(IN, L, E)` (R113). -/
def longPre (inp sec : Bytes) (len : U64) (secretLen : Nat) : U64 :=
  mergeLanes sec len (longLanes inp sec len secretLen)

/-! ### The operations -/

/-- The lanes after `ACCUMULATE(io, so)` on the running call. -/
def State.accumulated (s : State) (io so : Nat) : Vector U64 8 := accumulate s.input s.effectiveSecret io so s.acc

/-- `ACC_INIT` (R106; transition table R84). -/
def execAccInit (s : State) : Host.Outcome State Fault Refusal :=
  .next
    { s with
      acc := initialLanes
      seq := { phase := if 0 < s.geometry.nblk then .stripe else .tail, blk := 0, str := 0 } }

/-- `STRIPE` (R109; transition table R84): the next stripe of a whole block. -/
def execStripe (s : State) : Host.Outcome State Fault Refusal :=
  let str := s.seq.str.toNat
  let acc := s.accumulated (s.seq.blk.toNat * s.geometry.blkLen + stripeLen * str) (secretConsume * str)
  if str + 1 < s.geometry.nspb then .next { s with acc, seq := { s.seq with phase := .stripe, str := s.seq.str + 1 } }
  else .next { s with acc, seq := { s.seq with phase := .scramble, str := 0 } }

/-- `SCRAMBLE` (R108; transition table R84). -/
def execScramble (s : State) : Host.Outcome State Fault Refusal :=
  let phase : Phase :=
    if s.seq.blk.toNat + 1 < s.geometry.nblk then .stripe else if 0 < s.geometry.nst then .tail else .last
  .next
    { s with
      acc := scrambleLanes s.effectiveSecret s.effectiveLen s.acc
      seq := { s.seq with phase, blk := s.seq.blk + 1 } }

/-- `TAIL` (R110; transition table R84): the next whole stripe after the last whole block. -/
def execTail (s : State) : Host.Outcome State Fault Refusal :=
  let str := s.seq.str.toNat
  let acc := s.accumulated (s.geometry.nblk * s.geometry.blkLen + stripeLen * str) (secretConsume * str)
  if str + 1 < s.geometry.nst then .next { s with acc, seq := { s.seq with phase := .tail, str := s.seq.str + 1 } }
  else .next { s with acc, seq := { s.seq with phase := .last } }

/-- `LAST` (R111): the last 64 bytes of the input under the window at `S - 71`. -/
def execLast (s : State) : Host.Outcome State Fault Refusal :=
  .next ({ s with acc := s.accumulated (s.req.len.toNat - 64) (s.effectiveLen - 71) }.goto .merge)

/-- `MERGE` (R112). -/
def execMerge (s : State) : Host.Outcome State Fault Refusal :=
  .next (s.handOver (mergeLanes s.effectiveSecret s.req.len s.acc))

/-- `LONG` (R113): the LongHasher as one operation, from the derived secret to `RESULT`. It leaves the state that the
phases ACC_INIT to FINAL leave (log entry 10). -/
def execLong (s : State) : Host.Outcome State Fault Refusal :=
  let acc := longLanes s.input s.effectiveSecret s.req.len s.effectiveLen
  let pre := mergeLanes s.effectiveSecret s.req.len acc
  let seq : Sequencer :=
    { s.seq with blk := BitVec.ofNat 64 s.geometry.nblk, str := BitVec.ofNat 64 (s.geometry.nst - 1) }
  .next ({ s with acc, pre, seq, status := { s.status with bucket := some .long } }.deliver (aval3 pre))

/-- `LONG_OVR` (R81): the external unit in place of the LongHasher. -/
def execLongOvr (s : State) : Host.Outcome State Fault Refusal := .next s.overrideCall

end Sys2Proof.Machine
end

