-- ==== Sys2Proof/Machine/Short.lean ====
section
/-! DEFINITION. The ShortHasher (`41_short.md`): the six short buckets, each a pre-final value, and phase SHORT. -/

namespace Sys2Proof.Machine

/-! ### The pre-final values -/

/-- `LEN0` (R91): no input byte is read. -/
def pre0 (sec : Bytes) (seed : U64) : U64 := seed ^^^ (le64 sec 56 ^^^ le64 sec 64)

/-- `combined` of `LEN1_3` (R92). -/
def combined1_3 (inp : Bytes) (len : U64) : U32 :=
  let c1 : U32 := (inp 0).setWidth 32
  let c2 : U32 := (inp (len.toNat / 2)).setWidth 32
  let c3 : U32 := (inp (len.toNat - 1)).setWidth 32
  (c1 <<< 16) ||| (c2 <<< 24) ||| c3 ||| (len.setWidth 32 <<< 8)

/-- `LEN1_3` (R92). -/
def pre1_3 (inp sec : Bytes) (len seed : U64) : U64 :=
  (combined1_3 inp len).setWidth 64 ^^^ add64 ((le32 sec 0 ^^^ le32 sec 4).setWidth 64) seed

/-- `LEN4_8` (R93). -/
def pre4_8 (inp sec : Bytes) (len seed : U64) : U64 :=
  let seed2 := seed ^^^ ((swap32 (seed.extractLsb' 0 32)).setWidth 64 <<< 32)
  let in1 := le32 inp 0
  let in2 := le32 inp (len.toNat - 4)
  let bitflip := sub64 (le64 sec 8 ^^^ le64 sec 16) seed2
  add64 (in2.setWidth 64) (in1.setWidth 64 <<< 32) ^^^ bitflip

/-- `LEN9_16` (R94). -/
def pre9_16 (inp sec : Bytes) (len seed : U64) : U64 :=
  let bitflip1 := add64 (le64 sec 24 ^^^ le64 sec 32) seed
  let bitflip2 := sub64 (le64 sec 40 ^^^ le64 sec 48) seed
  let lo := le64 inp 0 ^^^ bitflip1
  let hi := le64 inp (len.toNat - 8) ^^^ bitflip2
  add64 (add64 (add64 len (swap64 lo)) hi) (mulFold lo hi)

/-- `MIX16(io, so)` (R95): the seed is added to the first secret word and subtracted from the second. -/
def mix16 (inp sec : Bytes) (seed : U64) (io so : Nat) : U64 :=
  mulFold (le64 inp io ^^^ add64 (le64 sec so) seed) (le64 inp (io + 8) ^^^ sub64 (le64 sec (so + 8)) seed)

/-- `LEN17_128` (R96). -/
def pre17_128 (inp sec : Bytes) (len seed : U64) : U64 :=
  (List.range ((len.toNat - 1) / 32 + 1)).foldl
    (fun acc i =>
      add64 (add64 acc (mix16 inp sec seed (16 * i) (32 * i)))
        (mix16 inp sec seed (len.toNat - 16 * (i + 1)) (32 * i + 16)))
    (mul64 len PRIME64_1)

/-- The first eight terms of `LEN129_240` (R97), before the mixer in the middle. -/
def front129_240 (inp sec : Bytes) (len seed : U64) : U64 :=
  (List.range 8).foldl (fun acc i => add64 acc (mix16 inp sec seed (16 * i) (16 * i))) (mul64 len PRIME64_1)

/-- `LEN129_240` (R97). -/
def pre129_240 (inp sec : Bytes) (len seed : U64) : U64 :=
  let acc := aval3 (front129_240 inp sec len seed)
  let acc :=
    (List.range (len.toNat / 16 - 8)).foldl
      (fun acc j => add64 acc (mix16 inp sec seed (16 * (j + 8)) (16 * j + 3))) acc
  add64 acc (mix16 inp sec seed (len.toNat - 16) 119)

/-! ### The operations -/

/-- `LEN0` as an operation: `PRE <-` its pre-final value (R90), then the final mixer (R84). -/
def execLen0 (s : State) : Host.Outcome State Fault Refusal := .next (s.handOver (pre0 s.shortSecret s.req.seed))

/-- `LEN1_3` as an operation. -/
def execLen1_3 (s : State) : Host.Outcome State Fault Refusal :=
  .next (s.handOver (pre1_3 s.input s.shortSecret s.req.len s.req.seed))

/-- `LEN4_8` as an operation. -/
def execLen4_8 (s : State) : Host.Outcome State Fault Refusal :=
  .next (s.handOver (pre4_8 s.input s.shortSecret s.req.len s.req.seed))

/-- `LEN9_16` as an operation. -/
def execLen9_16 (s : State) : Host.Outcome State Fault Refusal :=
  .next (s.handOver (pre9_16 s.input s.shortSecret s.req.len s.req.seed))

/-- `LEN17_128` as an operation. -/
def execLen17_128 (s : State) : Host.Outcome State Fault Refusal :=
  .next (s.handOver (pre17_128 s.input s.shortSecret s.req.len s.req.seed))

/-- `LEN129_240` as an operation. -/
def execLen129_240 (s : State) : Host.Outcome State Fault Refusal :=
  .next (s.handOver (pre129_240 s.input s.shortSecret s.req.len s.req.seed))

/-- Phase SHORT (R90): the operation the dispatcher's selector names. The bucket is never LONG here (`40_dispatch.md`
rule R84); a state that no run reaches runs the selected row all the same (log entry 9). -/
def execShort (s : State) : Host.Outcome State Fault Refusal :=
  match s.req.bucket with
  | .len0 => execLen0 s
  | .len1_3 => execLen1_3 s
  | .len4_8 => execLen4_8 s
  | .len9_16 => execLen9_16 s
  | .len17_128 => execLen17_128 s
  | .len129_240 => execLen129_240 s
  | .long => if s.req.ovrEn then execLongOvr s else execLong s

end Sys2Proof.Machine
end

