-- ==== Sys2Proof/Machine/Dispatch.lean ====
section
/-! DEFINITION. One arm per operation of the opcode table: the meaning of each. -/

namespace Sys2Proof.Machine

def exec (i : Instr) (s : State) : Host.Outcome State Fault Refusal :=
  match i with
  | .wr offset value => Sys2Proof.Machine.execWr offset value s
  | .rd offset => Sys2Proof.Machine.execRd offset s
  | .hash secretEn ovrEn inNull => Sys2Proof.Machine.execHash secretEn ovrEn inNull s
  | .hashHex secretEn ovrEn inNull => Sys2Proof.Machine.execHashHex secretEn ovrEn inNull s
  | .len0 => Sys2Proof.Machine.execLen0 s
  | .len1_3 => Sys2Proof.Machine.execLen1_3 s
  | .len4_8 => Sys2Proof.Machine.execLen4_8 s
  | .len9_16 => Sys2Proof.Machine.execLen9_16 s
  | .len17_128 => Sys2Proof.Machine.execLen17_128 s
  | .len129_240 => Sys2Proof.Machine.execLen129_240 s
  | .long => Sys2Proof.Machine.execLong s
  | .longOvr => Sys2Proof.Machine.execLongOvr s
  | .idle => Sys2Proof.Machine.execIdle s
  | .check => Sys2Proof.Machine.execCheck s
  | .dispatch => Sys2Proof.Machine.execDispatch s
  | .short => Sys2Proof.Machine.execShort s
  | .seedmix => Sys2Proof.Machine.execSeedmix s
  | .ovrWait => Sys2Proof.Machine.execOvrWait s
  | .accInit => Sys2Proof.Machine.execAccInit s
  | .stripe => Sys2Proof.Machine.execStripe s
  | .scramble => Sys2Proof.Machine.execScramble s
  | .tail => Sys2Proof.Machine.execTail s
  | .last => Sys2Proof.Machine.execLast s
  | .merge => Sys2Proof.Machine.execMerge s
  | .final => Sys2Proof.Machine.execFinal s
  | .format => Sys2Proof.Machine.execFormat s
  | .done => Sys2Proof.Machine.execDone s
  | .err => Sys2Proof.Machine.execErr s
  | .aval64 => Sys2Proof.Machine.execAval64 s
  | .rrmxmx => Sys2Proof.Machine.execRrmxmx s
  | .aval3 => Sys2Proof.Machine.execAval3 s
  | .bypass => Sys2Proof.Machine.execBypass s

end Sys2Proof.Machine
end

