-- ==== Sys2Proof/Machine/Inputs.lean ====
section
/-! DEFINITION. The outside world: what each of its moves does, how the next operation's code is found, and the expansion
of the `HASH` pseudo instruction (`30_encoding.md` rule R70). -/

namespace Sys2Proof.Machine

/-! ### Finding and running a code -/

/-- The datapath's next operation: what the sequencer's phase code selects (`10_state.md` rule R27). -/
def State.phaseCode (s : State) : Code := { fmt := .phase, bits := s.seq.phase.code }

/-- The code of a host access word. -/
def accessCode (word : BitVec 72) : Code := { fmt := .hostacc, bits := word.toNat }

/-- The code of a command word. -/
def commandCode (word : U64) : Code := { fmt := .cmd, bits := word.toNat }

/-- Run what a code stands for; a code that is no operation stops the machine by name. -/
def runCode (c : Code) (s : State) : Host.Outcome State Fault Refusal :=
  match decode c with
  | .ok i => exec i s
  | .error e => .fault (.undecodable e)

/-! ### The host's other moves -/

/-- A host write narrower than 64 bits (`10_state.md` rule R22): a write of the zero-extended value to the register that
holds the byte at `offset`. A read-only register ignores it at each of its bytes (`30_encoding.md` rule R66). At a
writable register's inner byte the value still replaces the whole register (log entry 19). Past the window nothing exists
(`20_memory.md` rule R40). -/
def writeNarrow (offset : BitVec 7) (width : Narrow) (value : U64) (s : State) : Host.Outcome State Fault Refusal :=
  if offset.toNat < 0x40 then s.hostWrite (width.extend value) (Reg.ofByte (offset.setWidth 6))
  else .fault .noSuchRegister

/-- A host read of one byte: byte `k` of a register holds its bits `8k+7 .. 8k`, and byte `k` of `HEX` is character
`k` (`20_memory.md` rule R41). -/
def readByte (offset : BitVec 6) (s : State) : Host.Outcome State Fault Refusal :=
  let r := Reg.ofByte offset
  .next { (s.hostRead r).2 with rdata := (byteOf (s.hostRead r).1 (offset.toNat % 8)).setWidth 64 }

/-- `IN[0 .. n) <- bytes`, refused while the running call may read those bytes (`70_reset_and_hazards.md` rule R173). -/
def loadInput (bytes : List Byte) (s : State) : Host.Outcome State Fault Refusal :=
  if s.seq.phase.busy && decide (bytes ≠ []) && decide (s.req.len ≠ 0) then .refused .bufferInUse
  else .next { s with inMem := s.inMem.fill bytes }

/-- `SEC[0 .. n) <- bytes`, refused while the running call may read those bytes (`70_reset_and_hazards.md` rule R173),
and when `SEC` cannot hold them (`10_state.md` rule R22). -/
def loadSecret (bytes : List Byte) (s : State) : Host.Outcome State Fault Refusal :=
  if s.seq.phase.busy && decide (bytes ≠ []) && s.req.secretEn && decide (s.req.secretLen ≠ 0) then
    .refused .bufferInUse
  else if s.cfg.secretMax < bytes.length then .refused .secretTooLong
  else .next { s with secMem := s.secMem.fill bytes }

/-- A move of another agent than the host: the datapath, the override unit, reset. -/
def Input.isOthers : Input → Bool
  | .datapath | .answer _ | .reset => true
  | .access _ | .command _ | .writeNarrow _ _ _ | .readByte _ | .ldin _ | .ldsec _ | .poll => false

/-- The moves after a read of `POLL` that found the call running: one move of another agent, the next in the list if it
is one and else the datapath's, and then `POLL` again (log entry 18). -/
def pollAgain : List Input → List Input
  | [] => [.datapath, .poll]
  | i :: rest => if i.isOthers then i :: .poll :: rest else .datapath :: .poll :: i :: rest

/-- One read of `POLL` (`30_encoding.md` rule R70): read `STATUS`; unless the call has ended, let another agent move and
poll again. -/
def poll (s : State) : Host.Outcome State Fault Refusal :=
  if s.seq.phase = .done ∨ s.seq.phase = .err then .next { s with rdata := statusWord s }
  else .next { s with rdata := statusWord s, inputs := pollAgain s.inputs }

/-- The override unit drives an answer: it waits at the port of a pending request that has none yet, and is discarded
otherwise (`70_reset_and_hazards.md` rule R170). DESIGN CHOICE: an answer names no request (`30_encoding.md` rule R68), so
one that arrives while a request is pending is that request's, even if the unit meant one that a reset dropped (log
entry 7). -/
def unitAnswers (value : U64) (s : State) : Host.Outcome State Fault Refusal :=
  if s.ovr.isSome && s.answer.isNone then .next { s with answer := some value } else .next s

/-- Reset (`70_reset_and_hazards.md` rule R170): every piece of the spec's state at its reset value, whatever was
running. The parameters, the draw counter and the outside world's later moves are not the block's (log entry 16). -/
def applyReset (s : State) : Host.Outcome State Fault Refusal :=
  .next { State.reset with draws := s.draws, inputs := s.inputs, cfg := s.cfg }

/-- What one move of the outside world does; `s` has the later moves left. -/
def deliverInput (i : Input) (s : State) : Host.Outcome State Fault Refusal :=
  match i with
  | .datapath => runCode s.phaseCode s
  | .access word => runCode (accessCode word) s
  | .command word => runCode (commandCode word) s
  | .writeNarrow offset width value => writeNarrow offset width value s
  | .readByte offset => readByte offset s
  | .ldin bytes => loadInput bytes s
  | .ldsec bytes => loadSecret bytes s
  | .poll => poll s
  | .answer value => unitAnswers value s
  | .reset => applyReset s

/-! ### Placing a code where the next step finds it -/

/-- A length in a bucket, for a request that makes the dispatcher select it. -/
def selectingLength (bits : Nat) : U64 :=
  match bits % 8 with
  | 0 => 0
  | 1 => 1
  | 2 => 4
  | 3 => 9
  | 4 => 17
  | 5 => 129
  | _ => 241

/-- A selector of format `DSEL` whose final mixer has the given code. -/
def selectingDsel (fmix : Nat) : Nat :=
  match fmix with
  | 0 => 0b0000
  | 1 => 0b0010
  | 2 => 0b0011
  | _ => 0b1110

/-- `s` with a request that selects row `dsel` of format `DSEL`, in a phase of the datapath's next step. -/
def State.selecting (s : State) (dsel : Nat) (p : Phase) : State :=
  { s with
    req := { s.req with len := selectingLength dsel, ovrEn := (BitVec.ofNat 4 dsel).getLsbD 3 }
    inputs := .datapath :: s.inputs }.goto p

/-- `s` with a code placed so that the next step runs it (log entry 12): a host code as the outside world's next move,
a phase code in the sequencer, a selector through the request and the phase that consult it. -/
def State.placeCode (s : State) (c : Code) : State :=
  match c.fmt with
  | .hostacc => { s with inputs := .access (BitVec.ofNat 72 c.bits) :: s.inputs }
  | .cmd => { s with inputs := .command (BitVec.ofNat 64 c.bits) :: s.inputs }
  | .phase => { s with inputs := .datapath :: s.inputs }.goto (Phase.ofCode c.bits)
  | .dsel => s.selecting c.bits .short
  | .fmix => s.selecting (selectingDsel c.bits) .final

/-! ### The HASH pseudo instruction -/

/-- A host write in a host program. -/
def wrLine (offset : BitVec 7) (value : U64) : Input := .access (encodeWr offset value)

/-- A host read in a host program. -/
def rdLine (offset : BitVec 7) : Input := .access (encodeRd offset)

/-- `HASH in [, secret=s] [, seed=v] [, hex] [, ovr]` (`30_encoding.md` rule R70), expanded. `meanwhile` is what the other
agents do while the host polls, not part of the expansion: a call with override needs the unit's answer there. -/
def hashProgram (input : List Byte) (secret : Option (List Byte)) (seed : U64) (hex ovr : Bool)
    (meanwhile : List Input) : List Input :=
  [.ldin input, wrLine 0x18 (BitVec.ofNat 64 input.length)] ++
    (match secret with
      | none => []
      | some bytes => [.ldsec bytes, wrLine 0x20 (BitVec.ofNat 64 bytes.length)]) ++
    [wrLine 0x10 seed, wrLine 0x00 (encodeCmd hex secret.isSome ovr false), .poll] ++ meanwhile ++ [rdLine 0x28] ++
    (if hex then [rdLine 0x30, rdLine 0x38] else [])

end Sys2Proof.Machine
end

