-- ==== Sys2Proof/Machine/Step.lean ====
section
/-! DEFINITION. One step of the machine: the outside world's next move, or the datapath's when it has none. -/

namespace Sys2Proof.Machine

/-- One step. With no move of the outside world to come, the datapath runs the operation of its phase
(`40_dispatch.md` rule R84: one row fires per step). -/
def step (s : State) : Host.Outcome State Fault Refusal :=
  match s.inputs with
  | [] => runCode s.phaseCode s
  | i :: rest => deliverInput i { s with inputs := rest }

/-- `s` with a table word placed where the next step finds its operation (log entry 12). -/
def State.withFetchWord (s : State) (nbits w : Nat) : State :=
  match tableFormat nbits with
  | none => s
  | some fmt => s.placeCode { fmt, bits := w }

end Sys2Proof.Machine
end

