-- ==== Sys2Proof/Machine/Whole.lean ====
section
/-! DEFINITION. A whole call as one function of its request (`40_dispatch.md` rules R75 and R83), and the number of steps
the transition table takes for it (rule R84). `step` does not use them: they are what statements compare a run with. -/

namespace Sys2Proof.Machine

/-- A request passes the error check (`60_exceptions.md` rule R153). -/
def Request.accepted (r : Request) : Bool :=
  !(r.secretEn && decide (r.secretLen.toNat < secretMin)) && !r.inNull

/-- The bytes of the default table or of the custom secret `sec`. -/
def viewBytes (sec : Bytes) (v : SecretView) : Bytes :=
  match v.space with
  | .ksecret => ksecret
  | .sec | .esec => sec

/-- `E` as a value (`43_seedmixer.md` rule R127), from the custom secret's bytes. -/
def effectiveBytes (cfg : Config) (sec : Bytes) (r : Request) : Bytes :=
  let src := r.mixSource cfg
  if r.mix cfg then fun k => (seedMixBytes (viewBytes sec src) src.len r.seed).getD k 0
  else viewBytes sec r.secretInUse

/-- The `RESULT` of an accepted call without override (R75): a function of the input, the custom secret and the
request alone. -/
def callResult (cfg : Config) (inp sec : Bytes) (r : Request) : U64 :=
  let short := viewBytes sec r.shortSecret
  match r.bucket with
  | .len0 => aval64 (pre0 short r.seed)
  | .len1_3 => aval64 (pre1_3 inp short r.len r.seed)
  | .len4_8 => rrmxmx (pre4_8 inp short r.len r.seed) r.len
  | .len9_16 => aval3 (pre9_16 inp short r.len r.seed)
  | .len17_128 => aval3 (pre17_128 inp short r.len r.seed)
  | .len129_240 => aval3 (pre129_240 inp short r.len r.seed)
  | .long => aval3 (longPre inp (effectiveBytes cfg sec r) r.len (r.effectiveSecret cfg).len)

/-- The override unit is consulted (`40_dispatch.md` rule R81). -/
def Request.consultsUnit (r : Request) : Bool := r.ovrEn && decide (r.bucket = .long)

/-- The bound of R84 on the steps of a call without override: `5 + NBLK*(NSPB+1) + NST + 4`. -/
def stepBound (g : Geometry) : Nat := 5 + g.nblk * (g.nspb + 1) + g.nst + 4

end Sys2Proof.Machine
end

