-- ==== Sys2Proof/Safety.lean ====
section
/-! DEFINITION. What a safe state is: the invariant of every state a run reaches, phase by phase of the transition table
(`40_dispatch.md` rule R84), and what it means that a step goes on. -/

namespace Sys2Proof.Machine

/-- What the latched request and the loop counters satisfy in each phase. -/
def State.phaseOk (s : State) : Prop :=
  match s.seq.phase with
  | .idle | .check | .err => True
  | .dispatch => s.req.accepted = true
  | .short => s.req.accepted = true ∧ s.req.bucket ≠ .long
  | .seedmix => s.req.accepted = true ∧ s.req.bucket = .long ∧ s.req.mix s.cfg = true
  | .ovrWait => s.req.accepted = true ∧ s.req.consultsUnit = true
  | .accInit => s.req.accepted = true ∧ s.req.bucket = .long ∧ s.req.ovrEn = false
  | .stripe =>
    s.req.accepted = true ∧ s.req.bucket = .long ∧ s.req.ovrEn = false ∧ s.seq.blk.toNat < s.geometry.nblk ∧
      s.seq.str.toNat < s.geometry.nspb
  | .scramble =>
    s.req.accepted = true ∧ s.req.bucket = .long ∧ s.req.ovrEn = false ∧ s.seq.blk.toNat < s.geometry.nblk ∧
      s.seq.str = 0
  | .tail =>
    s.req.accepted = true ∧ s.req.bucket = .long ∧ s.req.ovrEn = false ∧ s.seq.blk.toNat = s.geometry.nblk ∧
      s.seq.str.toNat < s.geometry.nst
  | .last | .merge => s.req.accepted = true ∧ s.req.bucket = .long ∧ s.req.ovrEn = false
  | .final => s.req.accepted = true ∧ s.req.consultsUnit = false
  | .format => s.req.accepted = true ∧ s.req.op = .hashHex
  | .done => s.req.accepted = true

/-- Phases in which `STATUS.BUCKET` is still 7 (`30_encoding.md` rule R62). -/
def Phase.beforeBucket : Phase → Bool
  | .idle | .check | .dispatch | .err => true
  | .short | .seedmix | .ovrWait | .accInit | .stripe | .scramble | .tail | .last | .merge | .final | .format
  | .done => false

/-- The invariant of every state a run reaches. -/
structure State.Inv (s : State) : Prop where
  /-- The memories keep their canonical form. -/
  memories : s.inMem.wf ∧ s.secMem.wf ∧ s.esecMem.wf
  /-- The request and the counters fit the phase. -/
  phase : s.phaseOk
  /-- `ERR` is non-zero exactly when `STATE = 3` (`30_encoding.md` rule R62). -/
  err : s.status.err ≠ .none ↔ s.seq.phase = .err
  /-- `BUCKET` is the bucket of the request once the dispatcher has run, and 7 before. -/
  bucket : s.status.bucket = if s.seq.phase.beforeBucket then none else some s.req.bucket
  /-- `OVR_USED` says that the result came from the override unit. -/
  ovrUsed : s.status.ovrUsed = true ↔ (s.seq.phase = .format ∨ s.seq.phase = .done) ∧ s.req.consultsUnit = true
  /-- `HEX_VALID` says that `HEX` renders `RESULT` (`45_formatter.md` rule R147). -/
  hexValid : s.status.hexValid = true ↔ s.seq.phase = .done ∧ s.req.op = .hashHex
  hex : s.status.hexValid = true → s.hex = hexFmt s.result
  /-- A request is pending only in phase OVR_WAIT, and it is the running call's (`10_state.md` rule R33). -/
  ovr : ∀ o, s.ovr = some o → s.seq.phase = .ovrWait ∧
    o = { len := s.req.len, seed := s.req.seed, secret := s.req.effectiveSecret s.cfg }
  /-- An answer waits only at the port of a pending request. -/
  answer : s.answer ≠ none → s.ovr ≠ none

/-- The machine goes on: the step is neither a fault nor a refusal. -/
def State.GoesOn (s : State) : Prop := ∃ t, step s = .next t

/-- `n` steps of the machine, stopping at the first fault or refusal. -/
def run (n : Nat) (s : State) : Host.Outcome State Fault Refusal := Host.Core.run Sys2Proof.core n s

/-- The phases in which a call has ended (`40_dispatch.md` rule R85). -/
def Phase.ended : Phase → Bool
  | .done | .err => true
  | .idle | .check | .dispatch | .short | .seedmix | .ovrWait | .accInit | .stripe | .scramble | .tail | .last
  | .merge | .final | .format => false

end Sys2Proof.Machine
end

