-- ==== Sys2Proof/Certificates/Slice0/Reference.lean ====
section
/-! DEFINITION. The vocabulary of the statements: the spec's formulas a second time, in natural numbers modulo `2^64` as
`00_scope.md` section 5 writes them, and not through the model's word operations. The model never uses them. -/

namespace Sys2Proof.Reference

open Sys2Proof.Machine

/-! ### Primitives (`00_scope.md` rules R6 to R14) -/

/-- `LE32` and `LE64` (R14): the sum of `2^(8k) * B[off+k]`. -/
def le (b : Bytes) (off n : Nat) : Nat := ∑ k ∈ Finset.range n, 2 ^ (8 * k) * (b (off + k)).toNat

/-- `ADD64` (R6). -/
def add (a b : Nat) : Nat := (a + b) % 2 ^ 64

/-- `SUB64` (R6). -/
def sub (a b : Nat) : Nat := (a + (2 ^ 64 - b)) % 2 ^ 64

/-- `MUL64` (R7). -/
def mul (a b : Nat) : Nat := a * b % 2 ^ 64

/-- `MULFOLD` (R9). -/
def fold (a b : Nat) : Nat := (a * b % 2 ^ 64) ^^^ (a * b / 2 ^ 64)

/-- `XORSHIFT` (R10). -/
def xorShift (v s : Nat) : Nat := v ^^^ (v / 2 ^ s)

/-- `ROTL64` (R11). -/
def rotl (v r : Nat) : Nat := (v * 2 ^ r % 2 ^ 64) ||| (v / 2 ^ (64 - r))

/-- `SWAP32` and `SWAP64` (R12): byte `k` of `n` goes to place `n-1-k`. -/
def swap (n v : Nat) : Nat := ∑ k ∈ Finset.range n, 2 ^ (8 * (n - 1 - k)) * (v / 2 ^ (8 * k) % 2 ^ 8)

/-! ### Final mixers (`44_finalizer.md`) -/

/-- `AVAL64` (R135), its constants those of `10_state.md` R30. -/
def aval64 (h : Nat) : Nat :=
  xorShift (mul (xorShift (mul (xorShift h 33) 0xC2B2AE3D27D4EB4F) 29) 0x165667B19E3779F9) 32

/-- `AVAL3` (R136). -/
def aval3 (h : Nat) : Nat := xorShift (mul (xorShift h 37) 0x165667919E3779F9) 32

/-- `RRMXMX` (R137). -/
def rrmxmx (h n : Nat) : Nat :=
  let a := mul (h ^^^ rotl h 49 ^^^ rotl h 24) 0x9FB21C651E98DF25
  xorShift (mul (a ^^^ add (a / 2 ^ 35) n) 0x9FB21C651E98DF25) 28

/-! ### The secrets a call uses -/

/-- `ShortSecret(REQ)` (`40_dispatch.md` R79). -/
def shortSecret (s : State) : Bytes :=
  if s.req.seed ≠ 0 then ksecret else if s.req.secretEn then s.secMem.read else ksecret

/-- `E` and its length `S` as a long call finds them once SEEDMIX has run (`43_seedmixer.md` R127, R129). -/
def secret (s : State) : Bytes × Nat :=
  if s.req.seed = 0 then
    if s.req.secretEn then (s.secMem.read, s.req.secretLen.toNat) else (ksecret, 192)
  else if s.req.secretEn then
    match s.cfg.policy with
    | .doc => (s.esecMem.read, s.req.secretLen.toNat)
    | .canonSecretAndSeed => (s.secMem.read, s.req.secretLen.toNat)
    | .canonSeedOnly => (s.esecMem.read, 192)
  else (s.esecMem.read, 192)

/-- The source and the length of SEEDMIX (`43_seedmixer.md` R127, R129). -/
def mixSource (s : State) : Bytes × Nat :=
  if s.req.secretEn ∧ s.cfg.policy ≠ .canonSeedOnly then (s.secMem.read, s.req.secretLen.toNat) else (ksecret, 192)

/-! ### Short buckets (`41_short.md`), all arguments numbers -/

def pre0 (sec : Bytes) (seed : Nat) : Nat := seed ^^^ (le sec 56 8 ^^^ le sec 64 8)

/-- R92: the four bytes of `combined`, from the highest to the lowest: middle, first, `L`, last. -/
def pre1_3 (inp sec : Bytes) (len seed : Nat) : Nat :=
  (2 ^ 24 * (inp (len / 2)).toNat + 2 ^ 16 * (inp 0).toNat + 2 ^ 8 * len + (inp (len - 1)).toNat) ^^^
    add (le sec 0 4 ^^^ le sec 4 4) seed

def pre4_8 (inp sec : Bytes) (len seed : Nat) : Nat :=
  (le inp (len - 4) 4 + 2 ^ 32 * le inp 0 4) ^^^
    sub (le sec 8 8 ^^^ le sec 16 8) (seed ^^^ (2 ^ 32 * swap 4 (seed % 2 ^ 32)))

def pre9_16 (inp sec : Bytes) (len seed : Nat) : Nat :=
  let lo := le inp 0 8 ^^^ add (le sec 24 8 ^^^ le sec 32 8) seed
  let hi := le inp (len - 8) 8 ^^^ sub (le sec 40 8 ^^^ le sec 48 8) seed
  (len + swap 8 lo + hi + fold lo hi) % 2 ^ 64

/-- `MIX16` (R95). -/
def mix16 (inp sec : Bytes) (seed io so : Nat) : Nat :=
  fold (le inp io 8 ^^^ add (le sec so 8) seed) (le inp (io + 8) 8 ^^^ sub (le sec (so + 8) 8) seed)

def pre17_128 (inp sec : Bytes) (len seed : Nat) : Nat :=
  (len * 0x9E3779B185EBCA87 +
    ∑ i ∈ Finset.range ((len - 1) / 32 + 1),
      (mix16 inp sec seed (16 * i) (32 * i) + mix16 inp sec seed (len - 16 * (i + 1)) (32 * i + 16))) % 2 ^ 64

def pre129_240 (inp sec : Bytes) (len seed : Nat) : Nat :=
  let middle :=
    aval3 ((len * 0x9E3779B185EBCA87 + ∑ i ∈ Finset.range 8, mix16 inp sec seed (16 * i) (16 * i)) % 2 ^ 64)
  (middle + (∑ i ∈ Finset.Ico 8 (len / 16), mix16 inp sec seed (16 * i) (16 * (i - 8) + 3)) +
    mix16 inp sec seed (len - 16) 119) % 2 ^ 64

/-! ### The long path (`42_long.md`) -/

/-- The lanes as numbers. -/
def lanes (v : Vector U64 8) (i : Nat) : Nat := (v[i]?.getD 0).toNat

/-- The initial lanes (`10_state.md` R31). -/
def initial (i : Nat) : Nat :=
  [0x00000000C2B2AE3D, 0x9E3779B185EBCA87, 0xC2B2AE3D27D4EB4F, 0x165667B19E3779F9, 0x85EBCA77C2B2AE63,
    0x0000000085EBCA77, 0x27D4EB2F165667C5, 0x000000009E3779B1].getD i 0

/-- Lane `i` after `ACCUMULATE(io, so)` (R107); the partner of an even lane is the next one, of an odd lane the one
before. -/
def accumulate (inp sec : Bytes) (io so : Nat) (a : Nat → Nat) (i : Nat) : Nat :=
  let partner := if i % 2 = 0 then i + 1 else i - 1
  let dk := le inp (io + 8 * i) 8 ^^^ le sec (so + 8 * i) 8
  (a i + le inp (io + 8 * partner) 8 + (dk % 2 ^ 32) * (dk / 2 ^ 32)) % 2 ^ 64

/-- Lane `i` after `SCRAMBLE` (R108). -/
def scramble (sec : Bytes) (secretLen : Nat) (a : Nat → Nat) (i : Nat) : Nat :=
  mul (xorShift (a i) 47 ^^^ le sec (secretLen - 64 + 8 * i) 8) 0x9E3779B1

/-- `MERGE` (R112). -/
def merge (sec : Bytes) (len : Nat) (a : Nat → Nat) : Nat :=
  (len * 0x9E3779B185EBCA87 +
    ∑ j ∈ Finset.range 4,
      fold (a (2 * j) ^^^ le sec (11 + 16 * j) 8) (a (2 * j + 1) ^^^ le sec (11 + 16 * j + 8) 8)) % 2 ^ 64

/-- `NSPB` (R105). -/
def nspb (secretLen : Nat) : Nat := (secretLen - 64) / 8
/-- `BLKLEN` (R105). -/
def blkLen (secretLen : Nat) : Nat := 64 * nspb secretLen
/-- `NBLK` (R105). -/
def nblk (len secretLen : Nat) : Nat := (len - 1) / blkLen secretLen
/-- `NST` (R105). -/
def nst (len secretLen : Nat) : Nat := ((len - 1) - blkLen secretLen * nblk len secretLen) / 64

/-- The lanes after the first `n` stripes from input offset `base` (R109, R110). -/
def stripes (inp sec : Bytes) (base : Nat) (a : Nat → Nat) : Nat → Nat → Nat
  | 0 => a
  | n + 1 => accumulate inp sec (base + 64 * n) (8 * n) (stripes inp sec base a n)

/-- The lanes after the first `n` whole blocks (R109). -/
def blocks (inp sec : Bytes) (secretLen : Nat) : Nat → Nat → Nat
  | 0 => initial
  | n + 1 =>
    scramble sec secretLen
      (stripes inp sec (n * blkLen secretLen) (blocks inp sec secretLen n) (nspb secretLen))

/-- `LongPre(IN, L, E)` (R113). -/
def longPre (inp sec : Bytes) (len secretLen : Nat) : Nat :=
  let k := nblk len secretLen
  let tail := stripes inp sec (k * blkLen secretLen) (blocks inp sec secretLen k) (nst len secretLen)
  merge sec len (accumulate inp sec (len - 64) (secretLen - 71) tail)

/-! ### The formatter (`45_formatter.md`) -/

/-- `DIGIT` (R146). -/
def digit (n : Nat) : Nat := if n ≤ 9 then 0x30 + n else 0x61 + (n - 10)

/-! ### The register window (`20_memory.md` R40) -/

/-- The register offsets: one each for the six registers of 64 bits, sixteen for `HEX`. -/
def isRegisterOffset (o : Nat) : Prop := (o ≤ 0x28 ∧ o % 8 = 0) ∨ (0x30 ≤ o ∧ o ≤ 0x3F)

/-- The register offsets with eight bytes to read before the end of the window. -/
def isReadOffset (o : Nat) : Prop := isRegisterOffset o ∧ o ≤ 0x38

/-! ### Phases and flags -/

/-- `STATUS.STATE` by name: 0 IDLE, 1 BUSY, 2 DONE, 3 ERR (`30_encoding.md` R62), by the phase's code (R65). -/
def stateCode (phaseCode : Nat) : Nat :=
  if phaseCode = 0 then 0 else if phaseCode = 14 then 2 else if phaseCode = 15 then 3 else 1

/-- `Bucket(L)` (`40_dispatch.md` R78), as the number of bucket boundaries at or below `L`. -/
def bucketCode (len : Nat) : Nat :=
  (([1, 4, 9, 17, 129, 241] : List Nat).filter fun b => decide (b ≤ len)).length

/-- The final-mixer code (`30_encoding.md` R67, `44_finalizer.md` R138). -/
def mixerCode (len : Nat) (ovrEn : Bool) : Nat :=
  if len ≤ 3 then 0 else if len ≤ 8 then 1 else if 240 < len ∧ ovrEn = true then 3 else 2

/-- `STATUS.BUCKET` as a number (`30_encoding.md` R62, R64). -/
def bucketNumber : Option Bucket → Nat
  | some .len0 => 0
  | some .len1_3 => 1
  | some .len4_8 => 2
  | some .len9_16 => 3
  | some .len17_128 => 4
  | some .len129_240 => 5
  | some .long => 6
  | none => 7

/-- `STATUS.ERR` as a number (`30_encoding.md` R63). -/
def errNumber : ErrCode → Nat
  | .none => 0
  | .invalidSecret => 1
  | .invalidInput => 2

/-- The command of a call: `HASH` or `HASH_HEX`. -/
def command (hex secretEn ovrEn inNull : Bool) : Instr :=
  if hex then .hashHex secretEn ovrEn inNull else .hash secretEn ovrEn inNull

/-- The request a command latches (`10_state.md` R28). -/
def latched (s : State) (hex secretEn ovrEn inNull : Bool) : Request where
  op := if hex then .hashHex else .hash
  secretEn := secretEn
  ovrEn := ovrEn
  inNull := inNull
  seed := s.seed
  len := s.len
  secretLen := s.secretLen

/-- A block that waits for a command and whose custom secret, if any, `SEC` can hold: a command starts a call. -/
def ready (s : State) (secretEn : Bool) : Prop :=
  stateCode s.seq.phase.code ≠ 1 ∧ (secretEn = true → s.secretLen.toNat ≤ s.cfg.secretMax)

/-- Where a call goes once `RESULT` is written (`40_dispatch.md` R84). -/
def afterResult (s : State) : Phase := if s.req.op = .hashHex then .format else .done

/-- The parts of the state a running call works with, and its outcome. -/
def sameCall (s t : State) : Prop :=
  t.req = s.req ∧ t.status = s.status ∧ t.result = s.result ∧ t.hex = s.hex ∧ t.acc = s.acc ∧ t.pre = s.pre ∧
    t.seq = s.seq ∧ t.esecMem = s.esecMem ∧ t.ovr = s.ovr

end Sys2Proof.Reference
end

