-- ==== Sys2Proof/Certificates/Slice0/Obligations.lean ====
section
/-! DEFINITION. The statements for the provers. `Reference` holds the spec's formulas they compare the model with. -/

open Sys2Proof Sys2Proof.Machine

/-! ### Encodings -/

/-- Decoding the code of a well-formed operation gives the operation back, every operand at every value. -/
def Obligations.DecodeOfEncodeGivesBack : Prop :=
  ∀ i : Instr, i.wellFormed = true → decode (encode i) = .ok i

/-- A code that decodes is of the operation's format and width, satisfies the match and mask of the operation's row of
the opcode table, and names a register offset where it names one. -/
def Obligations.DecodedCodeMatchesItsTableRow : Prop :=
  ∀ (c : Code) (i : Instr), decode c = .ok i →
    c.fmt = i.fmt ∧ c.bits < 2 ^ c.fmt.width ∧ c.bits &&& i.tableRow.2 = i.tableRow.1 ∧ i.wellFormed = true

/-- The decoder rejects what the spec assigns to no operation, and nothing else: a number too wide for its format, a host
access whose offset is no register's, a read that reaches past the window or has value bits, the bucket code 7.
That a read word with value bits is rejected is the model's choice (log entry 13). -/
def Obligations.DecodeRejectsExactlyTheUnassigned : Prop :=
  ∀ c : Code, (∃ e, decode c = .error e) ↔
    2 ^ c.fmt.width ≤ c.bits ∨
      (c.fmt = .hostacc ∧
        ((c.bits / 2 ^ 71 % 2 = 1 ∧ ¬Reference.isRegisterOffset (c.bits / 2 ^ 64 % 2 ^ 7)) ∨
          (c.bits / 2 ^ 71 % 2 = 0 ∧
            (¬Reference.isReadOffset (c.bits / 2 ^ 64 % 2 ^ 7) ∨ c.bits % 2 ^ 64 ≠ 0)))) ∨
      (c.fmt = .dsel ∧ c.bits % 8 = 7)

/-- Words the spec prints, decoded (host programs P1 to P5 of `95_test_vectors.md`, the selectors of R64 and R67). -/
def Obligations.PrintedWordsDecode : Prop :=
  decode ⟨.hostacc, 0x980000000000000005⟩ = .ok (.wr 0x18 5) ∧
    decode ⟨.hostacc, 0xA00000000000000088⟩ = .ok (.wr 0x20 136) ∧
    decode ⟨.hostacc, 0x080000000000000000⟩ = .ok (.rd 0x08) ∧
    decode ⟨.cmd, 0xA⟩ = .ok (.hash true false true) ∧
    decode ⟨.cmd, 5⟩ = .ok (.hashHex false true false) ∧
    decode ⟨.dsel, 0b0110⟩ = .ok .long ∧ decode ⟨.dsel, 0b1110⟩ = .ok .longOvr ∧
    decode ⟨.phase, 13⟩ = .ok .format ∧ decode ⟨.fmix, 1⟩ = .ok .rrmxmx

/-- The four defined bits of a command word select the command; bits 63:4 change nothing, and no command word is
illegal. -/
def Obligations.CommandWordReservedBitsIgnored : Prop :=
  (∀ v : U64, decode ⟨.cmd, v.toNat⟩ = .ok
    (Reference.command (v.toNat % 2 == 1) (v.toNat / 2 % 2 == 1) (v.toNat / 4 % 2 == 1) (v.toNat / 8 % 2 == 1))) ∧
  ∀ (s : State) (v w : U64), v.toNat % 16 = w.toNat % 16 → exec (.wr 0x00 v) s = exec (.wr 0x00 w) s

/-! ### The step -/

/-- A step runs the decoded operation: the phase's when it is the datapath's turn, the host's when the next move is a
host access or a command. A phase code always decodes.
The list of coming moves is the model's own (log entry 5). -/
def Obligations.StepRunsDecodedOperation : Prop :=
  (∀ s : State, ∃ i, decode s.phaseCode = .ok i ∧ encode i = s.phaseCode) ∧
  (∀ (s : State) (i : Instr), s.inputs = [] → decode s.phaseCode = .ok i → step s = exec i s) ∧
  (∀ (s : State) (rest : List Input) (i : Instr), s.inputs = .datapath :: rest → decode s.phaseCode = .ok i →
    step s = exec i { s with inputs := rest }) ∧
  (∀ (s : State) (w : BitVec 72) (rest : List Input) (i : Instr), s.inputs = .access w :: rest →
    decode ⟨.hostacc, w.toNat⟩ = .ok i → step s = exec i { s with inputs := rest }) ∧
  ∀ (s : State) (w : U64) (rest : List Input) (i : Instr), s.inputs = .command w :: rest →
    decode ⟨.cmd, w.toNat⟩ = .ok i → step s = exec i { s with inputs := rest }

/-- The rows no host writes are run by the operations that consult them: SHORT runs the row of the selector
`ovr_en || BUCKET`, FINAL the row of the final-mixer code, a write of `CMD` the row of the command word.
SHORT with bucket 6 is the model's choice (log entry 9). -/
def Obligations.SelectorRowsRunInTheirPhases : Prop :=
  ∀ s : State,
    (∃ i, decode ⟨.dsel, (if s.req.ovrEn then 8 else 0) + Reference.bucketCode s.req.len.toNat⟩ = .ok i ∧
      exec .short s = exec i s) ∧
    (∃ i, decode ⟨.fmix, Reference.mixerCode s.req.len.toNat s.req.ovrEn⟩ = .ok i ∧ exec .final s = exec i s) ∧
    ∀ v : U64, ∃ i, decode ⟨.cmd, v.toNat⟩ = .ok i ∧ exec (.wr 0x00 v) s = exec i s

/-- The machine stops only at these moves of the outside world: a host access word that does not decode, a narrow write
past the window, a load or a command with `SECRET_EN` whose secret `SEC` cannot hold, a load into a buffer the running
call may read. With none to come, the datapath always goes on.
The stops are the model's choices (log entries 13, 14 and 15). -/
def Obligations.StepStopsOnlyAtTheseMoves : Prop :=
  (∀ s : State, s.inputs = [] → s.GoesOn) ∧
  (∀ (s : State) (f : Fault), step s = .fault f → ∃ i rest, s.inputs = i :: rest ∧
    ((∃ w e, i = .access w ∧ decode ⟨.hostacc, w.toNat⟩ = .error e ∧ f = .undecodable e) ∨
      ∃ o n v, i = .writeNarrow o n v ∧ 0x40 ≤ o.toNat ∧ f = .noSuchRegister)) ∧
  ∀ (s : State) (r : Refusal), step s = .refused r → ∃ i rest, s.inputs = i :: rest ∧
    ((r = .bufferInUse ∧ Reference.stateCode s.seq.phase.code = 1 ∧
        ∃ b bytes, i = .ldin (b :: bytes) ∧ s.req.len ≠ 0 ∨
          i = .ldsec (b :: bytes) ∧ s.req.secretEn = true ∧ s.req.secretLen ≠ 0) ∨
      (r = .secretTooLong ∧
        ((∃ bytes, i = .ldsec bytes ∧ s.cfg.secretMax < bytes.length) ∨
          (s.cfg.secretMax < s.secretLen.toNat ∧ Reference.stateCode s.seq.phase.code ≠ 1 ∧
            ((∃ w v, i = .access w ∧ decode ⟨.hostacc, w.toNat⟩ = .ok (.wr 0x00 v) ∧ v.toNat / 2 % 2 = 1) ∨
              (∃ w, i = .command w ∧ w.toNat / 2 % 2 = 1) ∨
              ∃ o n v, i = .writeNarrow o n v ∧ o.toNat < 8 ∧ v.toNat / 2 % 2 = 1)))))

/-! ### The register window -/

/-- Writes of `SEED`, `LEN`, `SECRET_LEN` store the value in any phase; writes of `STATUS`, `RESULT` and of `HEX` at each
of its offsets are ignored (a write inside `HEX`: log entry 13). -/
def Obligations.HostWriteStoresRequestRegisters : Prop :=
  ∀ (s : State) (v : U64),
    exec (.wr 0x10 v) s = .next { s with seed := v } ∧
    exec (.wr 0x18 v) s = .next { s with len := v } ∧
    exec (.wr 0x20 v) s = .next { s with secretLen := v } ∧
    exec (.wr 0x08 v) s = .next s ∧ exec (.wr 0x28 v) s = .next s ∧
    ∀ offset : BitVec 7, 0x30 ≤ offset.toNat → offset.toNat ≤ 0x3F → exec (.wr offset v) s = .next s

/-- A command while the block waits starts a call: `REQ` is latched from the command bits and the three request
registers, `STATUS` reads BUSY with no error, no bucket and both valid bits clear, the phase becomes CHECK, and nothing
else changes. The same for `HASH`, `HASH_HEX`, and a write of `CMD` with those bits.
What `CMD` itself keeps is the model's choice (log entry 17). -/
def Obligations.CommandStartsCall : Prop :=
  ∀ (s : State) (hex secretEn ovrEn inNull : Bool), Reference.ready s secretEn →
    ∃ t, exec (Reference.command hex secretEn ovrEn inNull) s = .next t ∧
      (∀ v : U64,
        v.toNat % 16 = hex.toNat + 2 * secretEn.toNat + 4 * ovrEn.toNat + 8 * inNull.toNat →
        exec (.wr 0x00 v) s = .next t) ∧
      t =
        { s with
          cmd := { op := if hex then .hashHex else .hash, secretEn, ovrEn, inNull }
          req := Reference.latched s hex secretEn ovrEn inNull
          status := { err := .none, bucket := none, ovrUsed := false, hexValid := false }
          seq := { s.seq with phase := .check } } ∧
      statusWord t = 0x71

/-- A command while a call runs changes nothing. -/
def Obligations.CommandWhileBusyIgnored : Prop :=
  ∀ (s : State) (v : U64) (hex secretEn ovrEn inNull : Bool), (statusWord s).toNat % 4 = 1 →
    exec (.wr 0x00 v) s = .next s ∧ exec (Reference.command hex secretEn ovrEn inNull) s = .next s

/-- A command with a custom secret longer than `SECRET_MAX` is refused (R22, U6); the model's name for the stop (log entry 14). -/
def Obligations.SecretBeyondCapacityRefused : Prop :=
  ∀ (s : State) (hex ovrEn inNull : Bool), Reference.stateCode s.seq.phase.code ≠ 1 →
    s.cfg.secretMax < s.secretLen.toNat →
    exec (Reference.command hex true ovrEn inNull) s = .refused .secretTooLong

/-- A read returns the register and changes nothing else: 0 for `CMD`, the status word, the request registers, `RESULT`
once the call is done, and eight characters of `HEX` from any of its offsets once it is valid, the first in the lowest
byte. The read port `rdata` is
the model's own (log entry 6), and a read from inside `HEX` its reading (log entry 13). -/
def Obligations.HostReadReturnsRegister : Prop :=
  ∀ s : State,
    exec (.rd 0x00) s = .next { s with rdata := 0 } ∧
    exec (.rd 0x08) s = .next { s with rdata := statusWord s } ∧
    exec (.rd 0x10) s = .next { s with rdata := s.seed } ∧
    exec (.rd 0x18) s = .next { s with rdata := s.len } ∧
    exec (.rd 0x20) s = .next { s with rdata := s.secretLen } ∧
    (s.seq.phase = .done → exec (.rd 0x28) s = .next { s with rdata := s.result }) ∧
    (s.seq.phase = .done → s.status.hexValid = true → ∀ k, (hk : k ≤ 8) →
      ∃ a : U64, exec (.rd (BitVec.ofNat 7 (0x30 + k))) s = .next { s with rdata := a } ∧
        ∀ j, (hj : j < 8) → a.toNat / 2 ^ (8 * j) % 2 ^ 8 = (s.hex[k + j]).toNat)

/-- A read of `RESULT` before DONE, or of `HEX` without `HEX_VALID`, completes, disturbs nothing, and returns a free
value, a fresh one at each read (U1; the draw counter is the model's own, log entry 4; a read from inside `HEX`: log
entry 13). -/
def Obligations.EarlyReadIsFreeAndHarmless : Prop :=
  ∀ s : State,
    (s.seq.phase ≠ .done →
      exec (.rd 0x28) s = .next { s with rdata := Config.freeValue s.draws, draws := s.draws + 1 }) ∧
    (¬(s.seq.phase = .done ∧ s.status.hexValid = true) → ∀ k, k ≤ 8 →
      exec (.rd (BitVec.ofNat 7 (0x30 + k))) s =
        .next { s with rdata := Config.freeValue s.draws, draws := s.draws + 1 })

/-- An offset that is no register's does not exist: the access stops the machine, whether the term or the 72-bit word
names it, and so does a read that reaches past the window.
That the model stops there is its choice (log entry 13). -/
def Obligations.UnlistedOffsetsFault : Prop :=
  ∀ (s : State) (offset : BitVec 7) (v : U64),
    (¬Reference.isRegisterOffset offset.toNat →
      exec (.wr offset v) s = .fault .noSuchRegister ∧
      step { s with inputs := .access (encodeWr offset v) :: s.inputs } = .fault (.undecodable .noSuchOffset)) ∧
    (¬Reference.isReadOffset offset.toNat →
      exec (.rd offset) s = .fault .noSuchRegister ∧
      step { s with inputs := .access (encodeRd offset) :: s.inputs } = .fault (.undecodable .noSuchOffset))

/-- The status word: `STATE` in bits 1:0, `ERR` in 3:2, `BUCKET` in 6:4, `OVR_USED` in bit 7, `HEX_VALID` in bit 8,
zeros above. -/
def Obligations.StatusWordLayout : Prop :=
  ∀ s : State,
    (statusWord s).toNat =
      Reference.stateCode s.seq.phase.code + 2 ^ 2 * Reference.errNumber s.status.err +
        2 ^ 4 * Reference.bucketNumber s.status.bucket + 2 ^ 7 * s.status.ovrUsed.toNat +
        2 ^ 8 * s.status.hexValid.toNat

/-- A byte read returns byte `k` of what the 64-bit read of its register returns; a narrow write at any byte of the window
is the 64-bit write of the zero-extended value to the register that holds the byte, and stops past the window.
The model's choices (log entry 19): the spelling as moves, the three widths, and that at an inner byte of `CMD`, `SEED`,
`LEN` or `SECRET_LEN` the value replaces the whole register, which R22 and R41 do not say. -/
def Obligations.NarrowAccessesAreExtended : Prop :=
  (∀ (s : State) (rest : List Input) (offset : BitVec 6), s.inputs = .readByte offset :: rest →
    ∃ t, exec (.rd (BitVec.ofNat 7 (offset.toNat - offset.toNat % 8))) { s with inputs := rest } = .next t ∧
      step s =
        .next { t with rdata := BitVec.ofNat 64 (t.rdata.toNat / 2 ^ (8 * (offset.toNat % 8)) % 2 ^ 8) }) ∧
  ∀ (s : State) (rest : List Input) (offset : BitVec 7) (v : U64),
    (offset.toNat < 0x40 →
      (s.inputs = .writeNarrow offset .bits8 v :: rest →
        step s =
          exec (.wr (BitVec.ofNat 7 (offset.toNat - offset.toNat % 8)) (BitVec.ofNat 64 (v.toNat % 2 ^ 8)))
            { s with inputs := rest }) ∧
      (s.inputs = .writeNarrow offset .bits16 v :: rest →
        step s =
          exec (.wr (BitVec.ofNat 7 (offset.toNat - offset.toNat % 8)) (BitVec.ofNat 64 (v.toNat % 2 ^ 16)))
            { s with inputs := rest }) ∧
      (s.inputs = .writeNarrow offset .bits32 v :: rest →
        step s =
          exec (.wr (BitVec.ofNat 7 (offset.toNat - offset.toNat % 8)) (BitVec.ofNat 64 (v.toNat % 2 ^ 32)))
            { s with inputs := rest })) ∧
    (0x40 ≤ offset.toNat → ∀ width, s.inputs = .writeNarrow offset width v :: rest →
      step s = .fault .noSuchRegister)

/-- `LDIN` and `LDSEC` fill the buffer from offset 0, keep the bytes above and the canonical form, and change nothing
else; into a buffer the running call may read they are refused.
The exact condition of the refusal is the model's choice (log entry 15). -/
def Obligations.LoadsFillBuffers : Prop :=
  ∀ (s : State) (rest : List Input) (bytes : List Byte),
    (s.inputs = .ldin bytes :: rest → Reference.stateCode s.seq.phase.code ≠ 1 →
      ∃ m, step s = .next { s with inMem := m, inputs := rest } ∧ (s.inMem.wf → m.wf) ∧
        ∀ k, m.read k = if k < bytes.length then bytes.getD k 0 else s.inMem.read k) ∧
    (s.inputs = .ldsec bytes :: rest → Reference.stateCode s.seq.phase.code ≠ 1 → bytes.length ≤ s.cfg.secretMax →
      ∃ m, step s = .next { s with secMem := m, inputs := rest } ∧ (s.secMem.wf → m.wf) ∧
        ∀ k, m.read k = if k < bytes.length then bytes.getD k 0 else s.secMem.read k) ∧
    (s.inputs = .ldin bytes :: rest → Reference.stateCode s.seq.phase.code = 1 → bytes ≠ [] → s.req.len ≠ 0 →
      step s = .refused .bufferInUse) ∧
    (s.inputs = .ldsec bytes :: rest → Reference.stateCode s.seq.phase.code = 1 → bytes ≠ [] →
      s.req.secretEn = true → s.req.secretLen ≠ 0 → step s = .refused .bufferInUse)

/-! ### Errors -/

/-- CHECK: `InvalidSecret` first, then `InvalidInput`, else DISPATCH; the code and the phase are all that is written. -/
def Obligations.CheckTestsSecretThenInput : Prop :=
  ∀ s : State,
    (s.req.secretEn = true ∧ s.req.secretLen.toNat < 136 →
      exec .check s =
        .next { s with status := { s.status with err := .invalidSecret }, seq := { s.seq with phase := .err } }) ∧
    (¬(s.req.secretEn = true ∧ s.req.secretLen.toNat < 136) → s.req.inNull = true →
      exec .check s =
        .next { s with status := { s.status with err := .invalidInput }, seq := { s.seq with phase := .err } }) ∧
    (¬(s.req.secretEn = true ∧ s.req.secretLen.toNat < 136) → s.req.inNull = false →
      exec .check s = .next { s with seq := { s.seq with phase := .dispatch } })

/-- A call whose request fails the check ends in ERR one step after its command, with the code, `BUCKET` 7 and both
valid bits clear in `STATUS`; `RESULT`, `HEX`, `ACC`, `PRE`, `ESEC` and `OVR` are as before the call; and the error
stays until the host moves. -/
def Obligations.FailedCheckEndsInErr : Prop :=
  ∀ (s : State) (hex secretEn ovrEn inNull : Bool), Reference.ready s secretEn → s.inputs = [] →
    (secretEn = true ∧ s.secretLen.toNat < 136) ∨ inNull = true →
    ∃ t u, exec (Reference.command hex secretEn ovrEn inNull) s = .next t ∧ step t = .next u ∧
      u.seq.phase = .err ∧
      statusWord u = (if secretEn = true ∧ s.secretLen.toNat < 136 then 0x77 else 0x7B) ∧
      u.result = s.result ∧ u.hex = s.hex ∧ u.acc = s.acc ∧ u.pre = s.pre ∧ u.esecMem = s.esecMem ∧ u.ovr = s.ovr ∧
      ∀ n, run n u = .next u

/-- The error state is entered from CHECK and from nowhere else, and only for one of the two causes. -/
def Obligations.ErrIsEnteredOnlyFromCheck : Prop :=
  ∀ s t : State, step s = .next t → t.seq.phase = .err → s.seq.phase ≠ .err →
    s.seq.phase = .check ∧
      ((t.status.err = .invalidSecret ∧ s.req.secretEn = true ∧ s.req.secretLen.toNat < 136) ∨
        (t.status.err = .invalidInput ∧ s.req.inNull = true ∧
          ¬(s.req.secretEn = true ∧ s.req.secretLen.toNat < 136)))

/-! ### Sequencing -/

/-- In IDLE, DONE and ERR the datapath performs no step until the outside world moves. -/
def Obligations.WaitingPhasesDoNothing : Prop :=
  ∀ s : State,
    exec .idle s = .next s ∧ exec .done s = .next s ∧ exec .err s = .next s ∧
    (Reference.stateCode s.seq.phase.code ≠ 1 → s.inputs = [] → ∀ n, run n s = .next s)

/-- DISPATCH records the bucket of `L`, the boundaries exact, and chooses the next phase as the transition table says;
nothing else is written. -/
def Obligations.DispatchChoosesBucketAndPhase : Prop :=
  ∀ s : State, ∃ b p,
    exec .dispatch s =
      .next { s with status := { s.status with bucket := some b }, seq := { s.seq with phase := p } } ∧
    Reference.bucketNumber (some b) = Reference.bucketCode s.req.len.toNat ∧
    (s.req.len.toNat ≤ 240 → p = .short) ∧
    (240 < s.req.len.toNat → s.req.seed ≠ 0 → (s.req.secretEn = false ∨ s.cfg.policy ≠ .canonSecretAndSeed) →
      p = .seedmix) ∧
    (240 < s.req.len.toNat → (s.req.seed = 0 ∨ (s.req.secretEn = true ∧ s.cfg.policy = .canonSecretAndSeed)) →
      p = if s.req.ovrEn then .ovrWait else .accInit)

/-- The datapath writes nothing of the host's: not `IN`, `SEC`, `SEED`, `LEN`, `SECRET_LEN`, `CMD`; it never changes the
latched request, and it writes `ESEC` in phase SEEDMIX only. -/
def Obligations.DatapathWritesNoHostState : Prop :=
  ∀ s t : State, s.inputs = [] → step s = .next t →
    t.inMem = s.inMem ∧ t.secMem = s.secMem ∧ t.seed = s.seed ∧ t.len = s.len ∧ t.secretLen = s.secretLen ∧
      t.cmd = s.cmd ∧ t.req = s.req ∧ t.rdata = s.rdata ∧ t.draws = s.draws ∧ t.inputs = [] ∧ t.cfg = s.cfg ∧
      (s.seq.phase ≠ .seedmix → t.esecMem = s.esecMem)

/-- While a call runs, no move of the host disturbs it: register reads and writes, commands, loads and polls leave the
request, the flags, the results, the lanes, the sequencer, `ESEC` and `OVR` as they are, and the buffer bytes in use.
The moves are the model's (log entries 5, 15, 18). -/
def Obligations.HostMovesDoNotDisturbRunningCall : Prop :=
  ∀ (s t : State) (i : Input) (rest : List Input), Reference.stateCode s.seq.phase.code = 1 →
    s.inputs = i :: rest → i ≠ .datapath → i ≠ .reset → (∀ v, i ≠ .answer v) → step s = .next t →
    Reference.sameCall s t ∧ t.answer = s.answer ∧ (∀ k, k < s.req.len.toNat → t.inMem.read k = s.inMem.read k) ∧
      (s.req.secretEn = true → ∀ k, k < s.req.secretLen.toNat → t.secMem.read k = s.secMem.read k)

/-! ### The short buckets -/

/-- `LEN0`: the pre-final value from the seed and the secret alone, finished by `AVAL64`.
That the row as one step writes `PRE` only and goes to FINAL is the model's reading (log entry 10). -/
def Obligations.Len0Hashes : Prop :=
  ∀ s : State, s.req.len.toNat = 0 →
    ∃ t u, exec .len0 s = .next t ∧ exec .short s = .next t ∧
      t = { s with pre := t.pre, seq := { s.seq with phase := .final } } ∧
      t.pre.toNat = Reference.pre0 (Reference.shortSecret s) s.req.seed.toNat ∧
      exec .final t = .next u ∧ u.result.toNat = Reference.aval64 t.pre.toNat

/-- `LEN1_3`: first, middle and last byte and the length packed into one word, finished by `AVAL64`.
That the row as one step writes `PRE` only and goes to FINAL is the model's reading (log entry 10). -/
def Obligations.Len1To3Hashes : Prop :=
  ∀ s : State, 1 ≤ s.req.len.toNat → s.req.len.toNat ≤ 3 →
    ∃ t u, exec .len1_3 s = .next t ∧ exec .short s = .next t ∧
      t = { s with pre := t.pre, seq := { s.seq with phase := .final } } ∧
      t.pre.toNat =
        Reference.pre1_3 s.inMem.read (Reference.shortSecret s) s.req.len.toNat s.req.seed.toNat ∧
      exec .final t = .next u ∧ u.result.toNat = Reference.aval64 t.pre.toNat

/-- `LEN4_8`: the first and the last four bytes, finished by `RRMXMX` with the length.
That the row as one step writes `PRE` only and goes to FINAL is the model's reading (log entry 10). -/
def Obligations.Len4To8Hashes : Prop :=
  ∀ s : State, 4 ≤ s.req.len.toNat → s.req.len.toNat ≤ 8 →
    ∃ t u, exec .len4_8 s = .next t ∧ exec .short s = .next t ∧
      t = { s with pre := t.pre, seq := { s.seq with phase := .final } } ∧
      t.pre.toNat =
        Reference.pre4_8 s.inMem.read (Reference.shortSecret s) s.req.len.toNat s.req.seed.toNat ∧
      exec .final t = .next u ∧ u.result.toNat = Reference.rrmxmx t.pre.toNat s.req.len.toNat

/-- `LEN9_16`: the first and the last eight bytes, finished by `AVAL3`.
That the row as one step writes `PRE` only and goes to FINAL is the model's reading (log entry 10). -/
def Obligations.Len9To16Hashes : Prop :=
  ∀ s : State, 9 ≤ s.req.len.toNat → s.req.len.toNat ≤ 16 →
    ∃ t u, exec .len9_16 s = .next t ∧ exec .short s = .next t ∧
      t = { s with pre := t.pre, seq := { s.seq with phase := .final } } ∧
      t.pre.toNat =
        Reference.pre9_16 s.inMem.read (Reference.shortSecret s) s.req.len.toNat s.req.seed.toNat ∧
      exec .final t = .next u ∧ u.result.toNat = Reference.aval3 t.pre.toNat

/-- `LEN17_128`: pairs of `MIX16` terms from both ends, finished by `AVAL3`.
That the row as one step writes `PRE` only and goes to FINAL is the model's reading (log entry 10). -/
def Obligations.Len17To128Hashes : Prop :=
  ∀ s : State, 17 ≤ s.req.len.toNat → s.req.len.toNat ≤ 128 →
    ∃ t u, exec .len17_128 s = .next t ∧ exec .short s = .next t ∧
      t = { s with pre := t.pre, seq := { s.seq with phase := .final } } ∧
      t.pre.toNat =
        Reference.pre17_128 s.inMem.read (Reference.shortSecret s) s.req.len.toNat s.req.seed.toNat ∧
      exec .final t = .next u ∧ u.result.toNat = Reference.aval3 t.pre.toNat

/-- `LEN129_240`: eight `MIX16` terms, `AVAL3` in the middle, the other terms and the last one, finished by `AVAL3`.
That the row as one step writes `PRE` only and goes to FINAL is the model's reading (log entry 10). -/
def Obligations.Len129To240Hashes : Prop :=
  ∀ s : State, 129 ≤ s.req.len.toNat → s.req.len.toNat ≤ 240 →
    ∃ t u, exec .len129_240 s = .next t ∧ exec .short s = .next t ∧
      t = { s with pre := t.pre, seq := { s.seq with phase := .final } } ∧
      t.pre.toNat =
        Reference.pre129_240 s.inMem.read (Reference.shortSecret s) s.req.len.toNat s.req.seed.toNat ∧
      exec .final t = .next u ∧ u.result.toNat = Reference.aval3 t.pre.toNat

/-- A short call with a non-zero seed uses the default table: whether a custom secret was supplied, how long it is and
what it holds change nothing (R79). -/
def Obligations.SeededShortCallIgnoresCustomSecret : Prop :=
  ∀ (s : State) (m : Memory) (secretEn : Bool) (secretLen : U64), s.req.seed ≠ 0 → s.req.len.toNat ≤ 240 →
    ∃ t, exec .short s = .next t ∧
      exec .short { s with secMem := m, req := { s.req with secretEn, secretLen } } =
        .next { t with secMem := m, req := { s.req with secretEn, secretLen } }

/-- For the bucket of 17 to 128 bytes the seeded formula on the default table equals the seed-free formula on the
derived table (R96). -/
def Obligations.SeededBucketFourEqualsMixedTable : Prop :=
  ∀ (inp : Bytes) (len seed : U64), 17 ≤ len.toNat → len.toNat ≤ 128 →
    pre17_128 inp ksecret len seed = pre17_128 inp (fun k => (seedMixBytes ksecret 192 seed).getD k 0) len 0

/-! ### The derived secret -/

/-- SEEDMIX writes every whole lane of `ESEC[0 .. S)`, the seed added to even lanes and subtracted from odd ones, copies
the trailing bytes, leaves the bytes from `S` on, and goes on to the override or to the lanes; nothing else changes. -/
def Obligations.SeedmixWritesEveryLane : Prop :=
  ∀ s : State, ∃ m,
    exec .seedmix s =
      .next { s with esecMem := m, seq := { s.seq with phase := if s.req.ovrEn then .ovrWait else .accInit } } ∧
    (∀ j, j < (Reference.mixSource s).2 / 8 →
      Reference.le m.read (8 * j) 8 =
        if j % 2 = 0 then Reference.add (Reference.le (Reference.mixSource s).1 (8 * j) 8) s.req.seed.toNat
        else Reference.sub (Reference.le (Reference.mixSource s).1 (8 * j) 8) s.req.seed.toNat) ∧
    (∀ k, 8 * ((Reference.mixSource s).2 / 8) ≤ k → k < (Reference.mixSource s).2 →
      m.read k = (Reference.mixSource s).1 k) ∧
    ∀ k, (Reference.mixSource s).2 ≤ k → m.read k = s.esecMem.read k

/-- Deriving with seed 0 changes nothing; deriving with any other seed changes every whole lane; and deriving again with
the negated seed restores the source. -/
def Obligations.SeedmixIsUndoneByTheNegatedSeed : Prop :=
  ∀ (src : Bytes) (n : Nat) (seed : U64),
    (∀ k, k < n → (seedMixBytes src n 0).getD k 0 = src k) ∧
    (seed ≠ 0 → ∀ j, j < n / 8 →
      Reference.le (fun k => (seedMixBytes src n seed).getD k 0) (8 * j) 8 ≠ Reference.le src (8 * j) 8) ∧
    ∀ k, k < n →
      (seedMixBytes (fun i => (seedMixBytes src n seed).getD i 0) n (-seed)).getD k 0 = src k

/-- The effective secret of a long call is the secret in use, or its derivation held in `ESEC`, as the seed and the
policy say; after SEEDMIX the bytes read are the derived ones. -/
def Obligations.EffectiveSecretFollowsPolicy : Prop :=
  (∀ s : State, (s.effectiveSecret, s.effectiveLen) = Reference.secret s) ∧
  ∀ s : State, s.req.seed ≠ 0 → (s.req.secretEn = false ∨ s.cfg.policy ≠ .canonSecretAndSeed) →
    ∃ t, exec .seedmix s = .next t ∧ t.effectiveLen = (Reference.mixSource s).2 ∧
      ∀ k, k < t.effectiveLen →
        t.effectiveSecret k =
          (seedMixBytes (Reference.mixSource s).1 (Reference.mixSource s).2 s.req.seed).getD k 0

/-! ### The long path -/

/-- The loop counts and their bounds (R105). -/
def Obligations.GeometryBounds : Prop :=
  ∀ len secretLen : Nat, 240 < len → 136 ≤ secretLen →
    (geometry len secretLen).nspb = (secretLen - 64) / 8 ∧
    (geometry len secretLen).blkLen = 64 * (geometry len secretLen).nspb ∧
    (geometry len secretLen).nblk = (len - 1) / (geometry len secretLen).blkLen ∧
    (geometry len secretLen).nst =
      ((len - 1) - (geometry len secretLen).blkLen * (geometry len secretLen).nblk) / 64 ∧
    (geometry len secretLen).nst < (geometry len secretLen).nspb ∧
    ((geometry len secretLen).nblk = 0 → 3 ≤ (geometry len secretLen).nst) ∧
    (geometry len secretLen).nblk ≤ (len - 1) / 576 ∧
    (geometry len secretLen).blkLen * (geometry len secretLen).nblk + 64 * (geometry len secretLen).nst + 1 ≤ len ∧
    len ≤ (geometry len secretLen).blkLen * (geometry len secretLen).nblk + 64 * (geometry len secretLen).nst + 64 ∧
    8 * ((geometry len secretLen).nspb - 1) + 64 ≤ secretLen - 8

/-- ACC_INIT loads the eight initial lanes, clears both counters, and goes to the blocks or to the tail. -/
def Obligations.AccInitLoadsInitialLanes : Prop :=
  ∀ s : State, ∃ acc,
    exec .accInit s =
      .next
        { s with
          acc
          seq :=
            { phase := if 0 < Reference.nblk s.req.len.toNat (Reference.secret s).2 then .stripe else .tail
              blk := 0
              str := 0 } } ∧
    ∀ i, i < 8 → Reference.lanes acc i = Reference.initial i

/-- STRIPE, TAIL and LAST accumulate one stripe each at the offsets of R109, R110 and R111 and move the sequencer as the
transition table says; nothing else changes. -/
def Obligations.StripePhasesAccumulate : Prop :=
  ∀ s : State, 240 < s.req.len.toNat → 136 ≤ (Reference.secret s).2 →
    (s.seq.blk.toNat < Reference.nblk s.req.len.toNat (Reference.secret s).2 →
      s.seq.str.toNat < Reference.nspb (Reference.secret s).2 →
      ∃ acc str,
        exec .stripe s =
          .next
            { s with
              acc
              seq :=
                { s.seq with
                  str
                  phase := if s.seq.str.toNat + 1 = Reference.nspb (Reference.secret s).2 then .scramble
                    else .stripe } } ∧
        str.toNat = (if s.seq.str.toNat + 1 = Reference.nspb (Reference.secret s).2 then 0
          else s.seq.str.toNat + 1) ∧
        ∀ i, i < 8 → Reference.lanes acc i =
          Reference.accumulate s.inMem.read (Reference.secret s).1
            (s.seq.blk.toNat * Reference.blkLen (Reference.secret s).2 + 64 * s.seq.str.toNat) (8 * s.seq.str.toNat)
            (Reference.lanes s.acc) i) ∧
    (s.seq.str.toNat < Reference.nst s.req.len.toNat (Reference.secret s).2 →
      ∃ acc str,
        exec .tail s =
          .next
            { s with
              acc
              seq :=
                { s.seq with
                  str
                  phase := if s.seq.str.toNat + 1 = Reference.nst s.req.len.toNat (Reference.secret s).2 then .last
                    else .tail } } ∧
        str.toNat = (if s.seq.str.toNat + 1 = Reference.nst s.req.len.toNat (Reference.secret s).2 then
          s.seq.str.toNat else s.seq.str.toNat + 1) ∧
        ∀ i, i < 8 → Reference.lanes acc i =
          Reference.accumulate s.inMem.read (Reference.secret s).1
            (Reference.nblk s.req.len.toNat (Reference.secret s).2 * Reference.blkLen (Reference.secret s).2 +
              64 * s.seq.str.toNat) (8 * s.seq.str.toNat) (Reference.lanes s.acc) i) ∧
    ∃ acc,
      exec .last s = .next { s with acc, seq := { s.seq with phase := .merge } } ∧
      ∀ i, i < 8 → Reference.lanes acc i =
        Reference.accumulate s.inMem.read (Reference.secret s).1 (s.req.len.toNat - 64)
          ((Reference.secret s).2 - 71) (Reference.lanes s.acc) i

/-- SCRAMBLE mixes every lane with its word of the secret's last 64 bytes, counts the block, and goes to the next block,
the tail or the last stripe; nothing else changes. -/
def Obligations.ScrambleMixesEveryLane : Prop :=
  ∀ s : State, 240 < s.req.len.toNat → 136 ≤ (Reference.secret s).2 →
    s.seq.blk.toNat < Reference.nblk s.req.len.toNat (Reference.secret s).2 →
    ∃ acc blk,
      exec .scramble s =
        .next
          { s with
            acc
            seq :=
              { s.seq with
                blk
                phase :=
                  if s.seq.blk.toNat + 1 < Reference.nblk s.req.len.toNat (Reference.secret s).2 then .stripe
                  else if Reference.nst s.req.len.toNat (Reference.secret s).2 = 0 then .last else .tail } } ∧
      blk.toNat = s.seq.blk.toNat + 1 ∧
      ∀ i, i < 8 → Reference.lanes acc i =
        Reference.scramble (Reference.secret s).1 (Reference.secret s).2 (Reference.lanes s.acc) i

/-- MERGE folds the four lane pairs and the length into `PRE` and hands it to the final mixer; nothing else changes. -/
def Obligations.MergeFoldsLanePairs : Prop :=
  ∀ s : State, ∃ pre,
    exec .merge s = .next { s with pre, seq := { s.seq with phase := .final } } ∧
    pre.toNat = Reference.merge (Reference.secret s).1 s.req.len.toNat (Reference.lanes s.acc)

/-- LONG is the composition of R113: the lanes of all blocks, the tail and the last stripe, merged and finished by
`AVAL3`; besides the lanes, `PRE`, `RESULT`, the bucket flag and the sequencer nothing changes.
That LONG starts from the derived secret is the model's reading (log entry 10). -/
def Obligations.LongIsTheComposition : Prop :=
  ∀ s : State, 240 < s.req.len.toNat → 136 ≤ (Reference.secret s).2 →
    ∃ acc pre result blk str,
      exec .long s =
        .next
          { s with
            acc, pre, result
            status := { s.status with bucket := some .long }
            seq := { phase := Reference.afterResult s, blk, str } } ∧
      pre.toNat =
        Reference.longPre s.inMem.read (Reference.secret s).1 s.req.len.toNat (Reference.secret s).2 ∧
      result.toNat = Reference.aval3 pre.toNat

/-- The new value of a lane depends on its old value, the two input words of its pair and its own secret word in
ACCUMULATE, and on its old value and its own secret word in SCRAMBLE; on nothing else (R115). -/
def Obligations.LanesAreIndependent : Prop :=
  ∀ (inp inp' sec sec' : Bytes) (io io' so so' n n' : Nat) (acc acc' : Vector U64 8) (i : Fin 8),
    acc[i] = acc'[i] →
    (le64 inp (io + 8 * i.val) = le64 inp' (io' + 8 * i.val) →
      le64 inp (io + 8 * (i.val ^^^ 1)) = le64 inp' (io' + 8 * (i.val ^^^ 1)) →
      le64 sec (so + 8 * i.val) = le64 sec' (so' + 8 * i.val) →
      (accumulate inp sec io so acc)[i] = (accumulate inp' sec' io' so' acc')[i]) ∧
    (le64 sec (n - 64 + 8 * i.val) = le64 sec' (n' - 64 + 8 * i.val) →
      (scrambleLanes sec n acc)[i] = (scrambleLanes sec' n' acc')[i])

/-- Two stripes accumulate in either order: within a block each only adds to the lanes (R114). -/
def Obligations.StripesOfOneBlockCommute : Prop :=
  ∀ (inp sec : Bytes) (io so io' so' : Nat) (acc : Vector U64 8),
    accumulate inp sec io so (accumulate inp sec io' so' acc) =
      accumulate inp sec io' so' (accumulate inp sec io so acc)

/-- The composition LONG and the phases ACC_INIT to FINAL reach the very same state, in exactly
`NBLK*(NSPB+1) + NST + 4` steps.
LONG as one big step is the model's reading (log entry 10), and what `ACC`, `PRE`, `BLK` and `STR` hold at the end of the
call is the model's choice (log entry 24). -/
def Obligations.LongEqualsItsPhases : Prop :=
  ∀ s : State, s.Inv → s.seq.phase = .accInit → s.inputs = [] →
    ∃ t, exec .long s = .next t ∧
      run (s.geometry.nblk * (s.geometry.nspb + 1) + s.geometry.nst + 4) s = .next t

/-! ### Finalizer and formatter -/

/-- The three final mixers write `RESULT` from `PRE` by the formulas of R135, R136 and R137 and go to FORMAT or DONE;
nothing else changes. -/
def Obligations.FinalMixersWriteResult : Prop :=
  ∀ s : State, ∃ a b c,
    exec .aval64 s = .next { s with result := a, seq := { s.seq with phase := Reference.afterResult s } } ∧
    exec .aval3 s = .next { s with result := b, seq := { s.seq with phase := Reference.afterResult s } } ∧
    exec .rrmxmx s = .next { s with result := c, seq := { s.seq with phase := Reference.afterResult s } } ∧
    a.toNat = Reference.aval64 s.pre.toNat ∧ b.toNat = Reference.aval3 s.pre.toNat ∧
    c.toNat = Reference.rrmxmx s.pre.toNat s.req.len.toNat

/-- FINAL applies the mixer of the call's bucket (R138): `AVAL64` up to 3 bytes, `RRMXMX` with the length from 4 to 8,
`AVAL3` above, whenever the override unit is not consulted. -/
def Obligations.FinalAppliesTheBucketsMixer : Prop :=
  ∀ s : State, ¬(240 < s.req.len.toNat ∧ s.req.ovrEn = true) →
    ∃ r, exec .final s = .next { s with result := r, seq := { s.seq with phase := Reference.afterResult s } } ∧
      (s.req.len.toNat ≤ 3 → r.toNat = Reference.aval64 s.pre.toNat) ∧
      (4 ≤ s.req.len.toNat → s.req.len.toNat ≤ 8 → r.toNat = Reference.rrmxmx s.pre.toNat s.req.len.toNat) ∧
      (9 ≤ s.req.len.toNat → r.toNat = Reference.aval3 s.pre.toNat)

/-- `AVAL64` and `AVAL3` lose no information: each is a bijection on the 64-bit values. -/
def Obligations.FinalMixersAreBijections : Prop :=
  Function.Bijective aval64 ∧ Function.Bijective aval3

/-- FORMAT renders `RESULT` in sixteen lowercase digits, the most significant first, sets `HEX_VALID` and ends the call;
nothing else changes. -/
def Obligations.FormatRendersResult : Prop :=
  ∀ s : State, ∃ hex : Vector Byte 16,
    exec .format s =
      .next { s with hex, status := { s.status with hexValid := true }, seq := { s.seq with phase := .done } } ∧
    ∀ k, (hk : k < 16) → (hex[k]).toNat = Reference.digit (s.result.toNat / 2 ^ (60 - 4 * k) % 16)

/-- The rendering can be read back: every character is a digit of lowercase hexadecimal, and the digits spell the value. -/
def Obligations.HexRenderingReadsBack : Prop :=
  ∀ v : U64,
    (∀ k : Fin 16, (0x30 ≤ (hexFmt v)[k].toNat ∧ (hexFmt v)[k].toNat ≤ 0x39) ∨
      (0x61 ≤ (hexFmt v)[k].toNat ∧ (hexFmt v)[k].toNat ≤ 0x66)) ∧
    v.toNat = ∑ k : Fin 16,
      16 ^ (15 - k.val) *
        (if (hexFmt v)[k].toNat ≤ 0x39 then (hexFmt v)[k].toNat - 0x30 else (hexFmt v)[k].toNat - 0x61 + 10)

/-! ### The override -/

/-- OVR_WAIT and LONG_OVR issue the request when none is pending, showing the unit the input, the seed and the effective
secret; they and BYPASS take the unit's answer as the result, unmodified; without an answer they wait.
The answer's latch is the model's own (log entry 7), and LONG_OVR and BYPASS as steps are its reading (log entry 10). -/
def Obligations.OverridePortTransitions : Prop :=
  ∀ s : State,
    (s.ovr = none →
      ∃ view : SecretView, (s.space view.space, view.len) = Reference.secret s ∧
        ∀ i, i = .ovrWait ∨ i = .longOvr →
          exec i s =
            .next
              { s with
                ovr := some { len := s.req.len, seed := s.req.seed, secret := view }
                seq := { s.seq with phase := .ovrWait } }) ∧
    (∀ o v, s.ovr = some o → s.answer = some v → ∀ i, i = .ovrWait ∨ i = .longOvr ∨ i = .bypass →
      exec i s =
        .next
          { s with
            result := v
            status := { s.status with ovrUsed := true }
            ovr := none
            answer := none
            seq := { s.seq with phase := Reference.afterResult s } }) ∧
    (s.ovr ≠ none → s.answer = none → ∀ i, i = .ovrWait ∨ i = .longOvr ∨ i = .bypass → exec i s = .next s) ∧
    (s.ovr = none → exec .bypass s = .next s)

/-- A whole call with override: the unit is asked at most four steps after the command, it is shown the derived secret,
and whatever it answers is the result, unmodified, with the lanes and `PRE` untouched. The answer's way in is the model's
own (log entry 7). -/
def Obligations.OverrideAnswerIsTheResult : Prop :=
  ∀ (s : State) (hex secretEn : Bool), s.Inv → Reference.ready s secretEn → s.inputs = [] →
    240 < s.len.toNat → (secretEn = true → 136 ≤ s.secretLen.toNat) →
    ∃ t n u o, exec (Reference.command hex secretEn true false) s = .next t ∧ n ≤ 4 ∧ run n t = .next u ∧
      u.seq.phase = .ovrWait ∧ u.ovr = some o ∧ o.len = s.len ∧ o.seed = s.seed ∧
      (∀ k, k < o.secret.len → u.space o.secret.space k = effectiveBytes s.cfg s.secMem.read t.req k) ∧
      o.secret.len = (t.req.effectiveSecret s.cfg).len ∧
      ∀ v : U64, ∃ m w, m ≤ 3 ∧ run m { u with inputs := [.answer v] } = .next w ∧ w.seq.phase = .done ∧
        w.result = v ∧ statusWord w = (if hex then 0x1E2 else 0x0E2) ∧ (hex = true → w.hex = hexFmt v) ∧
        w.acc = s.acc ∧ w.pre = s.pre ∧ w.ovr = none

/-- A unit that never answers: whatever the host does short of reset, the call stays in OVR_WAIT with its request
pending and `STATE` BUSY, for any number of steps.
The host's moves are the model's (log entry 5). -/
def Obligations.UnansweredOverrideNeverEnds : Prop :=
  ∀ (s t : State) (n : Nat), s.seq.phase = .ovrWait → s.ovr ≠ none → s.answer = none →
    (∀ i ∈ s.inputs, i ≠ .reset ∧ ∀ v, i ≠ .answer v) → run n s = .next t →
    t.seq.phase = .ovrWait ∧ t.ovr = s.ovr ∧ t.answer = none ∧ (statusWord t).toNat % 4 = 1 ∧
      (s.inputs = [] → t = s)

/-! ### Reset and invariants -/

/-- After reset, and after a reset applied to any state: the sequencer, the status word, the request registers and the
override record are at the values of R36; an answer that arrives then is discarded; no step follows but waiting.
Reset as a move is the model's (log entry 16). -/
def Obligations.ResetState : Prop :=
  (∀ (s : State) (rest : List Input), s.inputs = .reset :: rest → s.GoesOn) ∧
  ∀ t : State, (t = State.reset ∨ ∃ s rest, s.inputs = .reset :: rest ∧ step s = .next t) →
    t.seq = { phase := .idle, blk := 0, str := 0 } ∧ statusWord t = 0x70 ∧ t.seed = 0 ∧ t.len = 0 ∧
      t.secretLen = 0 ∧ t.ovr = none ∧
      (∀ v rest, t.inputs = .answer v :: rest → step t = .next { t with inputs := rest }) ∧
      (t.inputs = [] → ∀ n, run n t = .next t)

/-- The invariant holds at reset.
The invariant also speaks of values the model chose at reset (log entries 2, 3). -/
def Obligations.InvariantAtReset : Prop := State.reset.Inv

/-- Every step keeps the invariant: the memories stay canonical, the request and the counters fit the phase, the flags
say what they mean, and the override record is pending only in OVR_WAIT. -/
def Obligations.StepKeepsInvariant : Prop :=
  ∀ s t : State, s.Inv → step s = .next t → t.Inv

/-- A step of the datapath reads only `IN[0 .. L)` and, when a custom secret was supplied, `SEC[0 .. S_custom)`: changing
any other byte of the two buffers changes nothing the step does. -/
def Obligations.StepReadsOnlyTheBuffersInUse : Prop :=
  ∀ (s : State) (m m' : Memory), s.Inv → s.inputs = [] →
    (∀ k, k < s.req.len.toNat → m.read k = s.inMem.read k) →
    (s.req.secretEn = true → ∀ k, k < s.req.secretLen.toNat → m'.read k = s.secMem.read k) →
    ∃ t, step s = .next t ∧
      step { s with inMem := m, secMem := m' } = .next { t with inMem := m, secMem := m' }

/-! ### Whole calls -/

/-- The result of a call is a function of the request, the input bytes and the custom secret's bytes in use. -/
def Obligations.ResultDependsOnTheRequestAlone : Prop :=
  ∀ (cfg : Config) (inp inp' sec sec' : Bytes) (r : Request), r.accepted = true →
    (∀ k, k < r.len.toNat → inp k = inp' k) →
    (r.secretEn = true → ∀ k, k < r.secretLen.toNat → sec k = sec' k) →
    callResult cfg inp sec r = callResult cfg inp' sec' r

/-- Every accepted call without override ends in DONE within the bound of R84, its command included, with the hash of
R75 in `RESULT`, its rendering in `HEX` after `HASH_HEX`, and the bucket in `STATUS`; the buffers and the request
registers are as before. -/
def Obligations.CallComputesTheHash : Prop :=
  ∀ (s : State) (hex secretEn ovrEn : Bool), Reference.ready s secretEn → s.inputs = [] →
    (secretEn = true → 136 ≤ s.secretLen.toNat) → (ovrEn = true → s.len.toNat ≤ 240) →
    ∃ t n u, exec (Reference.command hex secretEn ovrEn false) s = .next t ∧ n + 1 ≤ stepBound t.geometry ∧
      run n t = .next u ∧ u.seq.phase = .done ∧
      u.result = callResult s.cfg s.inMem.read s.secMem.read t.req ∧
      (hex = true → u.hex = hexFmt u.result) ∧
      (statusWord u).toNat = 2 + 2 ^ 4 * Reference.bucketCode s.len.toNat + 2 ^ 8 * hex.toNat ∧
      u.inMem = s.inMem ∧ u.secMem = s.secMem ∧ u.seed = s.seed ∧ u.len = s.len ∧ u.secretLen = s.secretLen

/-- The `HASH` pseudo instruction (R70), expanded into host accesses and run from any waiting state, ends with the hash of
R75 read back by the host. With `ovr` and an input above 240 bytes, where the unit answers at any time after it has been
asked (after three datapath steps, four where the secret is derived), the host's `POLL` ends too and the answer is read back, unmodified. How `POLL` interleaves with the other agents and
how an answer arrives are the model's choices (log entries 7, 18). -/
def Obligations.HashProgramReturnsTheHash : Prop :=
  (∀ (s : State) (input : List Byte) (secret : Option (List Byte)) (seed : U64) (hex : Bool),
    Reference.stateCode s.seq.phase.code ≠ 1 → s.inputs = hashProgram input secret seed hex false [] →
    input.length < 2 ^ 64 →
    (∀ b, secret = some b → 136 ≤ b.length ∧ b.length ≤ s.cfg.secretMax ∧ b.length < 2 ^ 64) →
    ∃ n t, run n s = .next t ∧ t.inputs = [] ∧ t.seq.phase = .done ∧
      t.result =
        callResult s.cfg (fun k => input.getD k 0) (fun k => (secret.getD []).getD k 0)
          { op := if hex then .hashHex else .hash
            secretEn := secret.isSome
            ovrEn := false
            inNull := false
            seed := seed
            len := BitVec.ofNat 64 input.length
            secretLen := BitVec.ofNat 64 (secret.getD []).length } ∧
      (hex = false → t.rdata = t.result) ∧
      (hex = true → ∀ k, (hk : k < 8) → t.rdata.toNat / 2 ^ (8 * k) % 2 ^ 8 = ((hexFmt t.result)[8 + k]).toNat)) ∧
  ∀ (s : State) (input : List Byte) (secret : Option (List Byte)) (seed : U64) (hex : Bool) (wait : Nat) (v : U64),
    s.Inv → Reference.stateCode s.seq.phase.code ≠ 1 → 3 ≤ wait →
    (seed ≠ 0 → (secret = none ∨ s.cfg.policy ≠ .canonSecretAndSeed) → 4 ≤ wait) →
    s.inputs = hashProgram input secret seed hex true (List.replicate wait .datapath ++ [.answer v]) →
    240 < input.length → input.length < 2 ^ 64 →
    (∀ b, secret = some b → 136 ≤ b.length ∧ b.length ≤ s.cfg.secretMax ∧ b.length < 2 ^ 64) →
    ∃ n t, run n s = .next t ∧ t.inputs = [] ∧ t.seq.phase = .done ∧ t.result = v ∧
      statusWord t = (if hex then 0x1E2 else 0x0E2) ∧
      (hex = false → t.rdata = v) ∧
      (hex = true → ∀ k, (hk : k < 8) → t.rdata.toNat / 2 ^ (8 * k) % 2 ^ 8 = ((hexFmt v)[8 + k]).toNat)
end

