-- ==== Sys2Proof/Laws/Arith.lean ====
section
/-! SUPPORT. Byte order: reading the little-endian bytes of a word gives the word back (`20_memory.md` rule R41). -/

namespace Sys2Proof.Machine

/-- Bytes outside the range read do not matter (`20_memory.md` rule R45). -/
theorem leNat_congr (b b' : Bytes) (off n : Nat) (h : ∀ k, off ≤ k → k < off + n → b k = b' k) :
    leNat b off n = leNat b' off n := by
  induction n generalizing off with
  | zero => rfl
  | succ n ih =>
    simp only [leNat]
    rw [h off (le_refl _) (by omega), ih (off + 1) fun k h1 h2 => h k (by omega) (by omega)]

theorem le64_congr (b b' : Bytes) (off : Nat) (h : ∀ k, off ≤ k → k < off + 8 → b k = b' k) :
    le64 b off = le64 b' off := by
  unfold le64
  rw [leNat_congr b b' off 8 h]

theorem le32_congr (b b' : Bytes) (off : Nat) (h : ∀ k, off ≤ k → k < off + 4 → b k = b' k) :
    le32 b off = le32 b' off := by
  unfold le32
  rw [leNat_congr b b' off 4 h]

theorem byteOf_toNat (v : U64) (k : Nat) : (byteOf v k).toNat = v.toNat / 2 ^ (8 * k) % 256 := by
  simp [byteOf, BitVec.extractLsb'_toNat, Nat.shiftRight_eq_div_pow]

/-- The `n` low bytes of a word, as a number. -/
theorem leNat_byteOf (v : U64) (b : Bytes) (off n k : Nat) (h : ∀ j, j < n → b (off + j) = byteOf v (k + j)) :
    leNat b off n = v.toNat / 2 ^ (8 * k) % 2 ^ (8 * n) := by
  induction n generalizing off k with
  | zero => simp [leNat, Nat.mod_one]
  | succ n ih =>
    simp only [leNat]
    rw [show b off = byteOf v k from by simpa using h 0 (by omega),
      ih (off + 1) (k + 1) fun j hj => by
        rw [show off + 1 + j = off + (j + 1) by omega, show k + 1 + j = k + (j + 1) by omega]
        exact h (j + 1) (by omega),
      byteOf_toNat, show 8 * (k + 1) = 8 * k + 8 by ring, show 8 * (n + 1) = 8 + 8 * n by ring, pow_add, pow_add,
      ← Nat.div_div_eq_div_mul, show (2 : Nat) ^ 8 = 256 by norm_num, Nat.mod_mul]

/-- Eight bytes that are a word's bytes in order spell the word. -/
theorem le64_of_bytes (v : U64) (b : Bytes) (off : Nat) (h : ∀ j, j < 8 → b (off + j) = byteOf v j) :
    le64 b off = v := by
  unfold le64
  rw [leNat_byteOf v b off 8 0 fun j hj => by simpa using h j hj]
  apply BitVec.eq_of_toNat_eq
  have := v.isLt
  simp only [BitVec.toNat_ofNat]
  omega

@[simp] theorem leBytes_length (v : U64) : (leBytes v).length = 8 := rfl

theorem leBytes_getD (v : U64) (k : Nat) (h : k < 8) : (leBytes v).getD k 0 = byteOf v k := by
  simp [leBytes, List.getD_eq_getElem?_getD, h]

end Sys2Proof.Machine
end

