-- ==== Sys2Proof/Laws/Long.lean ====
section
/-! SUPPORT. The lane operations lane by lane, and the loops one round at a time (`42_long.md` rules R107 to R112). -/

namespace Sys2Proof.Machine

/-- Lane `i` after `ACCUMULATE` (R107). -/
theorem accumulate_lane (inp sec : Bytes) (io so : Nat) (acc : Vector U64 8) (i : Fin 8) :
    (accumulate inp sec io so acc)[i] =
      acc[i] + le64 inp (io + 8 * (i.val ^^^ 1)) +
        mul32 ((le64 inp (io + 8 * i.val) ^^^ le64 sec (so + 8 * i.val)).extractLsb' 0 32)
          ((le64 inp (io + 8 * i.val) ^^^ le64 sec (so + 8 * i.val)).extractLsb' 32 32) := by
  simp [accumulate, add64]

/-- Lane `i` after `SCRAMBLE` (R108). -/
theorem scrambleLanes_lane (sec : Bytes) (n : Nat) (acc : Vector U64 8) (i : Fin 8) :
    (scrambleLanes sec n acc)[i] =
      (acc[i] ^^^ (acc[i] >>> 47) ^^^ le64 sec (n - 64 + 8 * i.val)) * PRIME32_1.setWidth 64 := by
  simp [scrambleLanes, mul64, xorShift]

@[simp] theorem stripes_zero (inp sec : Bytes) (base : Nat) (acc : Vector U64 8) : stripes inp sec base 0 acc = acc := rfl

theorem stripes_succ (inp sec : Bytes) (base n : Nat) (acc : Vector U64 8) :
    stripes inp sec base (n + 1) acc =
      accumulate inp sec (base + stripeLen * n) (secretConsume * n) (stripes inp sec base n acc) := by
  simp [stripes, List.range_succ, List.foldl_append]

@[simp] theorem blocks_zero (inp sec : Bytes) (n : Nat) (g : Geometry) (acc : Vector U64 8) :
    blocks inp sec n g 0 acc = acc := rfl

theorem blocks_succ (inp sec : Bytes) (n : Nat) (g : Geometry) (k : Nat) (acc : Vector U64 8) :
    blocks inp sec n g (k + 1) acc =
      scrambleLanes sec n (stripes inp sec (k * g.blkLen) g.nspb (blocks inp sec n g k acc)) := by
  simp [blocks, List.range_succ, List.foldl_append]

/-- `ACCUMULATE` reads only its stripe and its window (`20_memory.md` rule R45). -/
theorem accumulate_congr (inp inp' sec sec' : Bytes) (io so : Nat) (acc : Vector U64 8)
    (hi : ∀ k, io ≤ k → k < io + 64 → inp k = inp' k) (hs : ∀ k, so ≤ k → k < so + 64 → sec k = sec' k) :
    accumulate inp sec io so acc = accumulate inp' sec' io so acc := by
  apply Vector.ext
  intro i h
  have hx : i ^^^ 1 < 8 := Nat.xor_lt_two_pow (n := 3) h (by norm_num)
  have h1 := le64_congr inp inp' (io + 8 * i) fun k h1 h2 => hi k (by omega) (by omega)
  have h2 := le64_congr inp inp' (io + 8 * (i ^^^ 1)) fun k h1 h2 => hi k (by omega) (by omega)
  have h3 := le64_congr sec sec' (so + 8 * i) fun k h1 h2 => hs k (by omega) (by omega)
  simp [accumulate, h1, h2, h3]

end Sys2Proof.Machine
end

