-- ==== Sys2Proof/Laws/Memory.lean ====
section
/-! SUPPORT. The laws of the byte memories: what a byte reads as after `M[0 .. n) <- bytes`, and that filling keeps the
canonical form. -/

namespace Sys2Proof.Machine

@[simp] theorem Memory.read_nil (off : Nat) : Memory.read [] off = 0 := rfl

theorem Memory.read_cons (c : Host.Cell) (m : Memory) (off : Nat) :
    Memory.read (c :: m) off = if c.1 = off then c.2 else m.read off := by
  obtain ⟨a, v⟩ := c
  rfl

/-- An offset that no cell names reads as 0. -/
theorem Memory.read_of_absent (m : Memory) (off : Nat) (h : ∀ c ∈ m, c.1 ≠ off) : m.read off = 0 := by
  induction m with
  | nil => rfl
  | cons c m ih =>
    rw [Memory.read_cons, if_neg (h c (by simp))]
    exact ih fun c' hc' => h c' (by simp [hc'])

/-- The cells of a byte list lie at or above their base. -/
theorem Memory.le_of_mem_cells (bytes : List Byte) (base : Nat) : ∀ c ∈ Memory.cells bytes base, base ≤ c.1 := by
  induction bytes generalizing base with
  | nil => simp [Memory.cells]
  | cons v rest ih =>
    intro c hc
    unfold Memory.cells at hc
    split at hc
    · have := ih (base + 1) c hc; omega
    · rcases List.mem_cons.1 hc with rfl | hc
      · exact le_rfl
      · have := ih (base + 1) c hc; omega

/-- The cells of a byte list lie below their end. -/
theorem Memory.lt_of_mem_cells (bytes : List Byte) (base : Nat) :
    ∀ c ∈ Memory.cells bytes base, c.1 < base + bytes.length := by
  induction bytes generalizing base with
  | nil => simp [Memory.cells]
  | cons v rest ih =>
    intro c hc
    rw [List.length_cons]
    unfold Memory.cells at hc
    split at hc
    · have := ih (base + 1) c hc; omega
    · rcases List.mem_cons.1 hc with rfl | hc
      · simp only; omega
      · have := ih (base + 1) c hc; omega

theorem Memory.ne_zero_of_mem_cells (bytes : List Byte) (base : Nat) : ∀ c ∈ Memory.cells bytes base, c.2 ≠ 0 := by
  induction bytes generalizing base with
  | nil => simp [Memory.cells]
  | cons v rest ih =>
    intro c hc
    unfold Memory.cells at hc
    split at hc
    · exact ih _ c hc
    · rcases List.mem_cons.1 hc with rfl | hc
      · assumption
      · exact ih _ c hc

theorem Memory.pairwise_cells (bytes : List Byte) (base : Nat) :
    (Memory.cells bytes base).Pairwise (fun a b => a.1 < b.1) := by
  induction bytes generalizing base with
  | nil => simp [Memory.cells]
  | cons v rest ih =>
    unfold Memory.cells
    split
    · exact ih _
    · refine List.pairwise_cons.2 ⟨fun c hc => ?_, ih _⟩
      have := Memory.le_of_mem_cells rest (base + 1) c hc
      simp only; omega

/-- Reading the cells of a byte list gives the list back. -/
theorem Memory.read_cells (bytes : List Byte) (base k : Nat) :
    (Memory.cells bytes base).read (base + k) = bytes.getD k 0 := by
  induction bytes generalizing base k with
  | nil => simp [Memory.cells]
  | cons v rest ih =>
    unfold Memory.cells
    cases k with
    | zero =>
      split
      · rename_i hv
        rw [Memory.read_of_absent _ _ fun c hc => ?_]
        · simp [hv]
        · have := Memory.le_of_mem_cells rest (base + 1) c hc; omega
      · simp [Memory.read_cons]
    | succ k =>
      have hk : base + (k + 1) = base + 1 + k := by omega
      split
      · rw [hk, ih]; simp
      · rw [Memory.read_cons, if_neg (by simp), hk, ih]; simp

theorem Memory.read_append_left (m m' : Memory) (off : Nat) (h : ∀ c ∈ m', c.1 ≠ off) :
    Memory.read (m ++ m') off = m.read off := by
  induction m with
  | nil => simpa using Memory.read_of_absent m' off h
  | cons c m ih => rw [List.cons_append, Memory.read_cons, Memory.read_cons, ih]

theorem Memory.read_append_right (m m' : Memory) (off : Nat) (h : ∀ c ∈ m, c.1 ≠ off) :
    Memory.read (m ++ m') off = Memory.read m' off := by
  induction m with
  | nil => rfl
  | cons c m ih =>
    rw [List.cons_append, Memory.read_cons, if_neg (h c (by simp))]
    exact ih fun c' hc' => h c' (by simp [hc'])

theorem Memory.read_filter_ge (m : Memory) (n off : Nat) (h : n ≤ off) :
    Memory.read (m.filter fun c => decide (n ≤ c.1)) off = m.read off := by
  induction m with
  | nil => rfl
  | cons c m ih =>
    by_cases hc : n ≤ c.1
    · rw [List.filter_cons_of_pos (by simpa using hc), Memory.read_cons, Memory.read_cons, ih]
    · rw [List.filter_cons_of_neg (by simpa using hc), ih, Memory.read_cons, if_neg (by omega)]

/-- Read after fill: the filled bytes inside, the old bytes above. -/
theorem Memory.read_fill (m : Memory) (bytes : List Byte) (off : Nat) :
    (m.fill bytes).read off = if off < bytes.length then bytes.getD off 0 else m.read off := by
  unfold Memory.fill
  split
  · rename_i h
    rw [Memory.read_append_left]
    · simpa using Memory.read_cells bytes 0 off
    · intro c hc
      have := (List.mem_filter.1 hc).2
      simp only [decide_eq_true_eq] at this
      omega
  · rename_i h
    rw [Memory.read_append_right, Memory.read_filter_ge _ _ _ (by omega)]
    intro c hc
    have := Memory.lt_of_mem_cells bytes 0 c hc
    omega

/-- Filling keeps the canonical form. -/
theorem Memory.wf_fill (m : Memory) (bytes : List Byte) (h : m.wf) : (m.fill bytes).wf := by
  refine ⟨List.pairwise_append.2 ⟨Memory.pairwise_cells _ _, h.1.filter _, fun a ha b hb => ?_⟩, fun c hc => ?_⟩
  · have h1 := Memory.lt_of_mem_cells bytes 0 a ha
    have h2 := (List.mem_filter.1 hb).2
    simp only [decide_eq_true_eq] at h2
    omega
  · rcases List.mem_append.1 hc with hc | hc
    · exact Memory.ne_zero_of_mem_cells _ _ c hc
    · exact h.2 c (List.mem_filter.1 hc).1

/-- The empty memory is canonical. -/
theorem Memory.wf_nil : Memory.wf [] := ⟨List.Pairwise.nil, by simp⟩

end Sys2Proof.Machine
end

