-- ==== Sys2Proof/Laws/State.lean ====
section
/-! SUPPORT. One lemma per field of `State` for each named update: what the update leaves in the field. -/

namespace Sys2Proof.Machine

/-! ### `State.goto` -/

@[simp] theorem State.goto_cmd (s : State) (p : Phase) : (s.goto p).cmd = s.cmd := rfl
@[simp] theorem State.goto_seed (s : State) (p : Phase) : (s.goto p).seed = s.seed := rfl
@[simp] theorem State.goto_len (s : State) (p : Phase) : (s.goto p).len = s.len := rfl
@[simp] theorem State.goto_secretLen (s : State) (p : Phase) : (s.goto p).secretLen = s.secretLen := rfl
@[simp] theorem State.goto_req (s : State) (p : Phase) : (s.goto p).req = s.req := rfl
@[simp] theorem State.goto_status (s : State) (p : Phase) : (s.goto p).status = s.status := rfl
@[simp] theorem State.goto_result (s : State) (p : Phase) : (s.goto p).result = s.result := rfl
@[simp] theorem State.goto_hex (s : State) (p : Phase) : (s.goto p).hex = s.hex := rfl
@[simp] theorem State.goto_acc (s : State) (p : Phase) : (s.goto p).acc = s.acc := rfl
@[simp] theorem State.goto_pre (s : State) (p : Phase) : (s.goto p).pre = s.pre := rfl
@[simp] theorem State.goto_seq (s : State) (p : Phase) : (s.goto p).seq = { s.seq with phase := p } := rfl
@[simp] theorem State.goto_inMem (s : State) (p : Phase) : (s.goto p).inMem = s.inMem := rfl
@[simp] theorem State.goto_secMem (s : State) (p : Phase) : (s.goto p).secMem = s.secMem := rfl
@[simp] theorem State.goto_esecMem (s : State) (p : Phase) : (s.goto p).esecMem = s.esecMem := rfl
@[simp] theorem State.goto_ovr (s : State) (p : Phase) : (s.goto p).ovr = s.ovr := rfl
@[simp] theorem State.goto_answer (s : State) (p : Phase) : (s.goto p).answer = s.answer := rfl
@[simp] theorem State.goto_rdata (s : State) (p : Phase) : (s.goto p).rdata = s.rdata := rfl
@[simp] theorem State.goto_draws (s : State) (p : Phase) : (s.goto p).draws = s.draws := rfl
@[simp] theorem State.goto_inputs (s : State) (p : Phase) : (s.goto p).inputs = s.inputs := rfl
@[simp] theorem State.goto_cfg (s : State) (p : Phase) : (s.goto p).cfg = s.cfg := rfl

/-! ### `State.handOver` -/

@[simp] theorem State.handOver_cmd (s : State) (v : U64) : (s.handOver v).cmd = s.cmd := rfl
@[simp] theorem State.handOver_seed (s : State) (v : U64) : (s.handOver v).seed = s.seed := rfl
@[simp] theorem State.handOver_len (s : State) (v : U64) : (s.handOver v).len = s.len := rfl
@[simp] theorem State.handOver_secretLen (s : State) (v : U64) : (s.handOver v).secretLen = s.secretLen := rfl
@[simp] theorem State.handOver_req (s : State) (v : U64) : (s.handOver v).req = s.req := rfl
@[simp] theorem State.handOver_status (s : State) (v : U64) : (s.handOver v).status = s.status := rfl
@[simp] theorem State.handOver_result (s : State) (v : U64) : (s.handOver v).result = s.result := rfl
@[simp] theorem State.handOver_hex (s : State) (v : U64) : (s.handOver v).hex = s.hex := rfl
@[simp] theorem State.handOver_acc (s : State) (v : U64) : (s.handOver v).acc = s.acc := rfl
@[simp] theorem State.handOver_pre (s : State) (v : U64) : (s.handOver v).pre = v := rfl
@[simp] theorem State.handOver_seq (s : State) (v : U64) : (s.handOver v).seq = { s.seq with phase := .final } := rfl
@[simp] theorem State.handOver_inMem (s : State) (v : U64) : (s.handOver v).inMem = s.inMem := rfl
@[simp] theorem State.handOver_secMem (s : State) (v : U64) : (s.handOver v).secMem = s.secMem := rfl
@[simp] theorem State.handOver_esecMem (s : State) (v : U64) : (s.handOver v).esecMem = s.esecMem := rfl
@[simp] theorem State.handOver_ovr (s : State) (v : U64) : (s.handOver v).ovr = s.ovr := rfl
@[simp] theorem State.handOver_answer (s : State) (v : U64) : (s.handOver v).answer = s.answer := rfl
@[simp] theorem State.handOver_rdata (s : State) (v : U64) : (s.handOver v).rdata = s.rdata := rfl
@[simp] theorem State.handOver_draws (s : State) (v : U64) : (s.handOver v).draws = s.draws := rfl
@[simp] theorem State.handOver_inputs (s : State) (v : U64) : (s.handOver v).inputs = s.inputs := rfl
@[simp] theorem State.handOver_cfg (s : State) (v : U64) : (s.handOver v).cfg = s.cfg := rfl

/-! ### `State.deliver` -/

@[simp] theorem State.deliver_cmd (s : State) (v : U64) : (s.deliver v).cmd = s.cmd := rfl
@[simp] theorem State.deliver_seed (s : State) (v : U64) : (s.deliver v).seed = s.seed := rfl
@[simp] theorem State.deliver_len (s : State) (v : U64) : (s.deliver v).len = s.len := rfl
@[simp] theorem State.deliver_secretLen (s : State) (v : U64) : (s.deliver v).secretLen = s.secretLen := rfl
@[simp] theorem State.deliver_req (s : State) (v : U64) : (s.deliver v).req = s.req := rfl
@[simp] theorem State.deliver_status (s : State) (v : U64) : (s.deliver v).status = s.status := rfl
@[simp] theorem State.deliver_result (s : State) (v : U64) : (s.deliver v).result = v := rfl
@[simp] theorem State.deliver_hex (s : State) (v : U64) : (s.deliver v).hex = s.hex := rfl
@[simp] theorem State.deliver_acc (s : State) (v : U64) : (s.deliver v).acc = s.acc := rfl
@[simp] theorem State.deliver_pre (s : State) (v : U64) : (s.deliver v).pre = s.pre := rfl
@[simp] theorem State.deliver_seq (s : State) (v : U64) : (s.deliver v).seq = { s.seq with phase := s.afterResult } := rfl
@[simp] theorem State.deliver_inMem (s : State) (v : U64) : (s.deliver v).inMem = s.inMem := rfl
@[simp] theorem State.deliver_secMem (s : State) (v : U64) : (s.deliver v).secMem = s.secMem := rfl
@[simp] theorem State.deliver_esecMem (s : State) (v : U64) : (s.deliver v).esecMem = s.esecMem := rfl
@[simp] theorem State.deliver_ovr (s : State) (v : U64) : (s.deliver v).ovr = s.ovr := rfl
@[simp] theorem State.deliver_answer (s : State) (v : U64) : (s.deliver v).answer = s.answer := rfl
@[simp] theorem State.deliver_rdata (s : State) (v : U64) : (s.deliver v).rdata = s.rdata := rfl
@[simp] theorem State.deliver_draws (s : State) (v : U64) : (s.deliver v).draws = s.draws := rfl
@[simp] theorem State.deliver_inputs (s : State) (v : U64) : (s.deliver v).inputs = s.inputs := rfl
@[simp] theorem State.deliver_cfg (s : State) (v : U64) : (s.deliver v).cfg = s.cfg := rfl

/-! ### `State.startCall` -/

@[simp] theorem State.startCall_cmd (s : State) : (s.startCall).cmd = s.cmd := rfl
@[simp] theorem State.startCall_seed (s : State) : (s.startCall).seed = s.seed := rfl
@[simp] theorem State.startCall_len (s : State) : (s.startCall).len = s.len := rfl
@[simp] theorem State.startCall_secretLen (s : State) : (s.startCall).secretLen = s.secretLen := rfl
@[simp] theorem State.startCall_req (s : State) : (s.startCall).req = s.latched := rfl
@[simp] theorem State.startCall_status (s : State) : (s.startCall).status = { err := .none, bucket := none, ovrUsed := false, hexValid := false } := rfl
@[simp] theorem State.startCall_result (s : State) : (s.startCall).result = s.result := rfl
@[simp] theorem State.startCall_hex (s : State) : (s.startCall).hex = s.hex := rfl
@[simp] theorem State.startCall_acc (s : State) : (s.startCall).acc = s.acc := rfl
@[simp] theorem State.startCall_pre (s : State) : (s.startCall).pre = s.pre := rfl
@[simp] theorem State.startCall_seq (s : State) : (s.startCall).seq = { s.seq with phase := .check } := rfl
@[simp] theorem State.startCall_inMem (s : State) : (s.startCall).inMem = s.inMem := rfl
@[simp] theorem State.startCall_secMem (s : State) : (s.startCall).secMem = s.secMem := rfl
@[simp] theorem State.startCall_esecMem (s : State) : (s.startCall).esecMem = s.esecMem := rfl
@[simp] theorem State.startCall_ovr (s : State) : (s.startCall).ovr = s.ovr := rfl
@[simp] theorem State.startCall_answer (s : State) : (s.startCall).answer = s.answer := rfl
@[simp] theorem State.startCall_rdata (s : State) : (s.startCall).rdata = s.rdata := rfl
@[simp] theorem State.startCall_draws (s : State) : (s.startCall).draws = s.draws := rfl
@[simp] theorem State.startCall_inputs (s : State) : (s.startCall).inputs = s.inputs := rfl
@[simp] theorem State.startCall_cfg (s : State) : (s.startCall).cfg = s.cfg := rfl

/-! ### `State.raise` -/

@[simp] theorem State.raise_cmd (s : State) (e : ErrCode) : (s.raise e).cmd = s.cmd := rfl
@[simp] theorem State.raise_seed (s : State) (e : ErrCode) : (s.raise e).seed = s.seed := rfl
@[simp] theorem State.raise_len (s : State) (e : ErrCode) : (s.raise e).len = s.len := rfl
@[simp] theorem State.raise_secretLen (s : State) (e : ErrCode) : (s.raise e).secretLen = s.secretLen := rfl
@[simp] theorem State.raise_req (s : State) (e : ErrCode) : (s.raise e).req = s.req := rfl
@[simp] theorem State.raise_status (s : State) (e : ErrCode) : (s.raise e).status = { s.status with err := e } := rfl
@[simp] theorem State.raise_result (s : State) (e : ErrCode) : (s.raise e).result = s.result := rfl
@[simp] theorem State.raise_hex (s : State) (e : ErrCode) : (s.raise e).hex = s.hex := rfl
@[simp] theorem State.raise_acc (s : State) (e : ErrCode) : (s.raise e).acc = s.acc := rfl
@[simp] theorem State.raise_pre (s : State) (e : ErrCode) : (s.raise e).pre = s.pre := rfl
@[simp] theorem State.raise_seq (s : State) (e : ErrCode) : (s.raise e).seq = { s.seq with phase := .err } := rfl
@[simp] theorem State.raise_inMem (s : State) (e : ErrCode) : (s.raise e).inMem = s.inMem := rfl
@[simp] theorem State.raise_secMem (s : State) (e : ErrCode) : (s.raise e).secMem = s.secMem := rfl
@[simp] theorem State.raise_esecMem (s : State) (e : ErrCode) : (s.raise e).esecMem = s.esecMem := rfl
@[simp] theorem State.raise_ovr (s : State) (e : ErrCode) : (s.raise e).ovr = s.ovr := rfl
@[simp] theorem State.raise_answer (s : State) (e : ErrCode) : (s.raise e).answer = s.answer := rfl
@[simp] theorem State.raise_rdata (s : State) (e : ErrCode) : (s.raise e).rdata = s.rdata := rfl
@[simp] theorem State.raise_draws (s : State) (e : ErrCode) : (s.raise e).draws = s.draws := rfl
@[simp] theorem State.raise_inputs (s : State) (e : ErrCode) : (s.raise e).inputs = s.inputs := rfl
@[simp] theorem State.raise_cfg (s : State) (e : ErrCode) : (s.raise e).cfg = s.cfg := rfl

/-! ### `State.issueOverride` -/

@[simp] theorem State.issueOverride_cmd (s : State) : (s.issueOverride).cmd = s.cmd := rfl
@[simp] theorem State.issueOverride_seed (s : State) : (s.issueOverride).seed = s.seed := rfl
@[simp] theorem State.issueOverride_len (s : State) : (s.issueOverride).len = s.len := rfl
@[simp] theorem State.issueOverride_secretLen (s : State) : (s.issueOverride).secretLen = s.secretLen := rfl
@[simp] theorem State.issueOverride_req (s : State) : (s.issueOverride).req = s.req := rfl
@[simp] theorem State.issueOverride_status (s : State) : (s.issueOverride).status = s.status := rfl
@[simp] theorem State.issueOverride_result (s : State) : (s.issueOverride).result = s.result := rfl
@[simp] theorem State.issueOverride_hex (s : State) : (s.issueOverride).hex = s.hex := rfl
@[simp] theorem State.issueOverride_acc (s : State) : (s.issueOverride).acc = s.acc := rfl
@[simp] theorem State.issueOverride_pre (s : State) : (s.issueOverride).pre = s.pre := rfl
@[simp] theorem State.issueOverride_seq (s : State) : (s.issueOverride).seq = { s.seq with phase := .ovrWait } := rfl
@[simp] theorem State.issueOverride_inMem (s : State) : (s.issueOverride).inMem = s.inMem := rfl
@[simp] theorem State.issueOverride_secMem (s : State) : (s.issueOverride).secMem = s.secMem := rfl
@[simp] theorem State.issueOverride_esecMem (s : State) : (s.issueOverride).esecMem = s.esecMem := rfl
@[simp] theorem State.issueOverride_ovr (s : State) : (s.issueOverride).ovr = some { len := s.req.len, seed := s.req.seed, secret := s.req.effectiveSecret s.cfg } := rfl
@[simp] theorem State.issueOverride_answer (s : State) : (s.issueOverride).answer = s.answer := rfl
@[simp] theorem State.issueOverride_rdata (s : State) : (s.issueOverride).rdata = s.rdata := rfl
@[simp] theorem State.issueOverride_draws (s : State) : (s.issueOverride).draws = s.draws := rfl
@[simp] theorem State.issueOverride_inputs (s : State) : (s.issueOverride).inputs = s.inputs := rfl
@[simp] theorem State.issueOverride_cfg (s : State) : (s.issueOverride).cfg = s.cfg := rfl

/-! ### `State.acceptAnswer` -/

@[simp] theorem State.acceptAnswer_cmd (s : State) (v : U64) : (s.acceptAnswer v).cmd = s.cmd := rfl
@[simp] theorem State.acceptAnswer_seed (s : State) (v : U64) : (s.acceptAnswer v).seed = s.seed := rfl
@[simp] theorem State.acceptAnswer_len (s : State) (v : U64) : (s.acceptAnswer v).len = s.len := rfl
@[simp] theorem State.acceptAnswer_secretLen (s : State) (v : U64) : (s.acceptAnswer v).secretLen = s.secretLen := rfl
@[simp] theorem State.acceptAnswer_req (s : State) (v : U64) : (s.acceptAnswer v).req = s.req := rfl
@[simp] theorem State.acceptAnswer_status (s : State) (v : U64) : (s.acceptAnswer v).status = { s.status with ovrUsed := true } := rfl
@[simp] theorem State.acceptAnswer_result (s : State) (v : U64) : (s.acceptAnswer v).result = v := rfl
@[simp] theorem State.acceptAnswer_hex (s : State) (v : U64) : (s.acceptAnswer v).hex = s.hex := rfl
@[simp] theorem State.acceptAnswer_acc (s : State) (v : U64) : (s.acceptAnswer v).acc = s.acc := rfl
@[simp] theorem State.acceptAnswer_pre (s : State) (v : U64) : (s.acceptAnswer v).pre = s.pre := rfl
@[simp] theorem State.acceptAnswer_seq (s : State) (v : U64) : (s.acceptAnswer v).seq = { s.seq with phase := s.afterResult } := rfl
@[simp] theorem State.acceptAnswer_inMem (s : State) (v : U64) : (s.acceptAnswer v).inMem = s.inMem := rfl
@[simp] theorem State.acceptAnswer_secMem (s : State) (v : U64) : (s.acceptAnswer v).secMem = s.secMem := rfl
@[simp] theorem State.acceptAnswer_esecMem (s : State) (v : U64) : (s.acceptAnswer v).esecMem = s.esecMem := rfl
@[simp] theorem State.acceptAnswer_ovr (s : State) (v : U64) : (s.acceptAnswer v).ovr = none := rfl
@[simp] theorem State.acceptAnswer_answer (s : State) (v : U64) : (s.acceptAnswer v).answer = none := rfl
@[simp] theorem State.acceptAnswer_rdata (s : State) (v : U64) : (s.acceptAnswer v).rdata = s.rdata := rfl
@[simp] theorem State.acceptAnswer_draws (s : State) (v : U64) : (s.acceptAnswer v).draws = s.draws := rfl
@[simp] theorem State.acceptAnswer_inputs (s : State) (v : U64) : (s.acceptAnswer v).inputs = s.inputs := rfl
@[simp] theorem State.acceptAnswer_cfg (s : State) (v : U64) : (s.acceptAnswer v).cfg = s.cfg := rfl

/-! ### `State.draw` -/

@[simp] theorem State.draw_fst (s : State) : s.draw.1 = Config.freeValue s.draws := rfl
@[simp] theorem State.draw_snd (s : State) : s.draw.2 = { s with draws := s.draws + 1 } := rfl

/-! ### `State.latched` -/

@[simp] theorem State.latched_op (s : State) : s.latched.op = s.cmd.op := rfl
@[simp] theorem State.latched_secretEn (s : State) : s.latched.secretEn = s.cmd.secretEn := rfl
@[simp] theorem State.latched_ovrEn (s : State) : s.latched.ovrEn = s.cmd.ovrEn := rfl
@[simp] theorem State.latched_inNull (s : State) : s.latched.inNull = s.cmd.inNull := rfl
@[simp] theorem State.latched_seed (s : State) : s.latched.seed = s.seed := rfl
@[simp] theorem State.latched_len (s : State) : s.latched.len = s.len := rfl
@[simp] theorem State.latched_secretLen (s : State) : s.latched.secretLen = s.secretLen := rfl

end Sys2Proof.Machine
end

