-- ==== Sys2Proof/Laws/Ops.lean ====
section
/-! SUPPORT. What each shared operation can do, said once; the provers cite these instead of unfolding it. -/

namespace Sys2Proof.Machine

/-- A command write that goes on was ignored while a call ran, or started a call. -/
theorem State.commandWrite_cases (s t : State) (c : CmdReg) (h : s.commandWrite c = .next t) :
    (s.seq.phase.busy = true ∧ t = s) ∨
      (s.seq.phase.busy = false ∧ ¬(c.secretEn = true ∧ s.cfg.secretMax < s.secretLen.toNat) ∧
        t = State.startCall { s with cmd := c }) := by
  unfold State.commandWrite at h
  split at h
  · exact .inl ⟨‹_›, (by simpa using h.symm)⟩
  · rename_i hb
    split at h
    · simp at h
    · rename_i hc
      exact .inr ⟨by simpa using hb, by simpa using hc, by simpa using h.symm⟩

/-- A command that the rules accept starts a call. -/
theorem State.commandWrite_start (s : State) (c : CmdReg) (hb : s.seq.phase.busy = false)
    (hc : ¬(c.secretEn = true ∧ s.cfg.secretMax < s.secretLen.toNat)) :
    s.commandWrite c = .next (State.startCall { s with cmd := c }) := by
  unfold State.commandWrite
  rw [if_neg (by simp [hb]), if_neg (by simpa using hc)]

/-- The offsets a host write names are exactly those at which there is a register. -/
theorem Reg.isSome_ofOffset (offset : BitVec 7) : (Reg.ofOffset offset).isSome = writeOffsets.contains offset := by
  revert offset; decide

/-- The offsets a host read names are exactly those at which a register can be read. -/
theorem Reg.isSome_ofReadOffset (offset : BitVec 7) :
    (Reg.ofReadOffset offset).isSome = readOffsets.contains offset := by
  revert offset; decide

/-- At a readable offset a read and a write reach the same register. -/
theorem Reg.ofReadOffset_eq (offset : BitVec 7) (h : offset.toNat + 8 ≤ 0x40) :
    Reg.ofReadOffset offset = Reg.ofOffset offset := if_pos h

/-- The register of a byte is the one at the offset of its first byte (of its second word, for the second half of
`HEX`). -/
theorem Reg.ofOffset_of_byte (offset : BitVec 6) :
    Reg.ofOffset (BitVec.ofNat 7 (8 * (offset.toNat / 8))) = some (Reg.ofByte offset) := by
  revert offset; decide

/-- A host read changes nothing but the draw counter. -/
theorem State.hostRead_state (s : State) (r : Reg) :
    (s.hostRead r).2 = s ∨ (s.hostRead r).2 = { s with draws := s.draws + 1 } := by
  unfold State.hostRead
  split <;> first | exact .inl rfl | (split <;> simp)

/-- A host write that goes on wrote one request register, started a call, or was ignored. -/
theorem State.hostWrite_cases (s t : State) (v : U64) (r : Reg) (h : s.hostWrite v r = .next t) :
    t = s ∨ t = { s with seed := v } ∨ t = { s with len := v } ∨ t = { s with secretLen := v } ∨
      (r = .cmd ∧ s.seq.phase.busy = false ∧ t = State.startCall { s with cmd := CmdReg.ofWord v }) := by
  cases r <;> simp only [State.hostWrite] at h
  case cmd =>
    rcases State.commandWrite_cases _ _ _ h with ⟨-, rfl⟩ | ⟨hb, -, rfl⟩
    · exact .inl rfl
    · exact .inr (.inr (.inr (.inr ⟨rfl, hb, rfl⟩)))
  all_goals simp only [Host.Outcome.next.injEq] at h; simp [← h]

/-- Taking the unit's answer: with a request and an answer it ends the wait, else nothing happens. -/
theorem State.takeAnswer_cases (s : State) :
    (∃ o v, s.ovr = some o ∧ s.answer = some v ∧ s.takeAnswer = s.acceptAnswer v) ∨
      ((s.ovr = none ∨ s.answer = none) ∧ s.takeAnswer = s) := by
  unfold State.takeAnswer
  split
  · rename_i o v ho ha
    exact .inl ⟨o, v, ho, ha, rfl⟩
  · exact .inr ⟨.inr ‹_›, rfl⟩
  · exact .inr ⟨.inl ‹_›, rfl⟩

/-- The override call: issue, accept, or wait. -/
theorem State.overrideCall_cases (s : State) :
    (s.ovr = none ∧ s.overrideCall = s.issueOverride) ∨
      (∃ o v, s.ovr = some o ∧ s.answer = some v ∧ s.overrideCall = s.acceptAnswer v) ∨
      (s.ovr ≠ none ∧ s.answer = none ∧ s.overrideCall = s) := by
  unfold State.overrideCall
  split
  · exact .inl ⟨‹_›, rfl⟩
  · rename_i o ho
    rcases s.takeAnswer_cases with ⟨o', v, h1, h2, h3⟩ | ⟨h1, h2⟩
    · exact .inr (.inl ⟨o', v, h1, h2, h3⟩)
    · refine .inr (.inr ⟨by simp [ho], ?_, h2⟩)
      rcases h1 with h1 | h1
      · simp [ho] at h1
      · exact h1

/-- Where a call goes once `RESULT` is written (`40_dispatch.md` rule R84). -/
theorem afterResult_hash (s : State) (h : s.req.op = .hash) : s.afterResult = .done := by
  simp [State.afterResult, h]

theorem afterResult_hashHex (s : State) (h : s.req.op = .hashHex) : s.afterResult = .format := by
  simp [State.afterResult, h]

end Sys2Proof.Machine
end

