-- ==== Sys2Proof/Laws/PerInstr.lean ====
section
/-! SUPPORT. Statements about every constructor of `Instr`, one lemma each. -/

namespace Sys2Proof.Laws.CodeFits

/-- An operation's code is of its own format and fits the format's width (`30_encoding.md` section 6). -/
def Statement (i : Instr) : Prop := (encode i).fmt = i.fmt ∧ (encode i).bits < 2 ^ i.fmt.width

theorem wr (offset : BitVec 7) (value : U64) : Statement (.wr offset value) := ⟨rfl, BitVec.isLt _⟩
theorem rd (offset : BitVec 7) : Statement (.rd offset) := ⟨rfl, BitVec.isLt _⟩
theorem hash (secretEn ovrEn inNull : Bool) : Statement (.hash secretEn ovrEn inNull) := ⟨rfl, BitVec.isLt _⟩
theorem hashHex (secretEn ovrEn inNull : Bool) : Statement (.hashHex secretEn ovrEn inNull) := ⟨rfl, BitVec.isLt _⟩
theorem len0 : Statement .len0 := ⟨rfl, by decide⟩
theorem len1_3 : Statement .len1_3 := ⟨rfl, by decide⟩
theorem len4_8 : Statement .len4_8 := ⟨rfl, by decide⟩
theorem len9_16 : Statement .len9_16 := ⟨rfl, by decide⟩
theorem len17_128 : Statement .len17_128 := ⟨rfl, by decide⟩
theorem len129_240 : Statement .len129_240 := ⟨rfl, by decide⟩
theorem long : Statement .long := ⟨rfl, by decide⟩
theorem longOvr : Statement .longOvr := ⟨rfl, by decide⟩
theorem idle : Statement .idle := ⟨rfl, by decide⟩
theorem check : Statement .check := ⟨rfl, by decide⟩
theorem dispatch : Statement .dispatch := ⟨rfl, by decide⟩
theorem short : Statement .short := ⟨rfl, by decide⟩
theorem seedmix : Statement .seedmix := ⟨rfl, by decide⟩
theorem ovrWait : Statement .ovrWait := ⟨rfl, by decide⟩
theorem accInit : Statement .accInit := ⟨rfl, by decide⟩
theorem stripe : Statement .stripe := ⟨rfl, by decide⟩
theorem scramble : Statement .scramble := ⟨rfl, by decide⟩
theorem tail : Statement .tail := ⟨rfl, by decide⟩
theorem last : Statement .last := ⟨rfl, by decide⟩
theorem merge : Statement .merge := ⟨rfl, by decide⟩
theorem final : Statement .final := ⟨rfl, by decide⟩
theorem format : Statement .format := ⟨rfl, by decide⟩
theorem done : Statement .done := ⟨rfl, by decide⟩
theorem err : Statement .err := ⟨rfl, by decide⟩
theorem aval64 : Statement .aval64 := ⟨rfl, by decide⟩
theorem rrmxmx : Statement .rrmxmx := ⟨rfl, by decide⟩
theorem aval3 : Statement .aval3 := ⟨rfl, by decide⟩
theorem bypass : Statement .bypass := ⟨rfl, by decide⟩

end Sys2Proof.Laws.CodeFits
end

