-- ==== Sys2Proof/Laws/SeedMixer.lean ====
section
/-! SUPPORT. The bytes of a derived secret, one by one (`43_seedmixer.md` rule R126). -/

namespace Sys2Proof.Machine

/-- The whole lanes, as bytes. -/
theorem length_flatMap_leBytes (f : Nat → U64) (n : Nat) :
    ((List.range n).flatMap fun j => leBytes (f j)).length = 8 * n := by
  induction n with
  | zero => rfl
  | succ n ih => rw [List.range_succ, List.flatMap_append, List.length_append, ih]; simp; ring

theorem flatMap_leBytes_getD (f : Nat → U64) (n j k : Nat) (hj : j < n) (hk : k < 8) :
    ((List.range n).flatMap fun j => leBytes (f j)).getD (8 * j + k) 0 = byteOf (f j) k := by
  induction n with
  | zero => omega
  | succ n ih =>
    rw [List.range_succ, List.flatMap_append]
    rcases Nat.lt_or_ge j n with h | h
    · rw [List.getD_append _ _ _ _ (by rw [length_flatMap_leBytes]; omega)]
      exact ih h
    · obtain rfl : j = n := by omega
      rw [List.getD_append_right _ _ _ _ (by rw [length_flatMap_leBytes]; omega), length_flatMap_leBytes,
        Nat.add_sub_cancel_left]
      simpa using leBytes_getD (f j) k hk

/-- A derived secret is as long as its source (R130). -/
@[simp] theorem seedMixBytes_length (src : Bytes) (n : Nat) (seed : U64) : (seedMixBytes src n seed).length = n := by
  unfold seedMixBytes
  rw [List.length_append, length_flatMap_leBytes, List.length_map, List.length_range]
  omega

/-- Byte `k` of whole lane `j`. -/
theorem seedMixBytes_lane (src : Bytes) (n : Nat) (seed : U64) (j k : Nat) (hj : j < n / 8) (hk : k < 8) :
    (seedMixBytes src n seed).getD (8 * j + k) 0 = byteOf (seedLane src seed j) k := by
  unfold seedMixBytes
  rw [List.getD_append _ _ _ _ (by rw [length_flatMap_leBytes]; omega)]
  exact flatMap_leBytes_getD _ _ _ _ hj hk

/-- A trailing byte is the source's. -/
theorem seedMixBytes_trailing (src : Bytes) (n : Nat) (seed : U64) (k : Nat) (h1 : 8 * (n / 8) ≤ k) (h2 : k < n) :
    (seedMixBytes src n seed).getD k 0 = src k := by
  unfold seedMixBytes
  rw [List.getD_append_right _ _ _ _ (by rw [length_flatMap_leBytes]; omega), length_flatMap_leBytes]
  have h : k - 8 * (n / 8) < n % 8 := by omega
  simp [List.getD_eq_getElem?_getD, h, show 8 * (n / 8) + (k - 8 * (n / 8)) = k by omega]

/-- Reading whole lane `j` of a derived secret (R126). -/
theorem le64_seedMixBytes (src : Bytes) (n : Nat) (seed : U64) (j : Nat) (hj : j < n / 8) :
    le64 (fun k => (seedMixBytes src n seed).getD k 0) (8 * j) = seedLane src seed j :=
  le64_of_bytes _ _ _ fun k hk => seedMixBytes_lane src n seed j k hj hk

end Sys2Proof.Machine
end

