-- ==== Sys2Proof/Laws/Step.lean ====
section
/-! SUPPORT. The step by the outside world's next move, and the operation each phase code selects. -/

namespace Sys2Proof.Machine

/-- The operation of a phase (`30_encoding.md` rule R65). -/
def Phase.instr : Phase → Instr
  | .idle => .idle
  | .check => .check
  | .dispatch => .dispatch
  | .short => .short
  | .seedmix => .seedmix
  | .ovrWait => .ovrWait
  | .accInit => .accInit
  | .stripe => .stripe
  | .scramble => .scramble
  | .tail => .tail
  | .last => .last
  | .merge => .merge
  | .final => .final
  | .format => .format
  | .done => .done
  | .err => .err

theorem decode_phaseCode (s : State) : decode s.phaseCode = .ok s.seq.phase.instr := by
  unfold State.phaseCode
  cases s.seq.phase <;> rfl

theorem runCode_phaseCode (s s' : State) : runCode s.phaseCode s' = exec s.seq.phase.instr s' := by
  simp only [runCode, decode_phaseCode]

/-- With no move of the outside world to come, the step is the datapath's. -/
theorem step_of_no_inputs (s : State) (h : s.inputs = []) : step s = exec s.seq.phase.instr s := by
  unfold step
  rw [h]
  exact runCode_phaseCode s s

theorem step_of_input (s : State) (i : Input) (rest : List Input) (h : s.inputs = i :: rest) :
    step s = deliverInput i { s with inputs := rest } := by
  unfold step
  rw [h]

/-- `POLL` brings in no move but its own next read and the datapath's. -/
theorem mem_pollAgain (l : List Input) (i : Input) (h : i ∈ pollAgain l) : i = .datapath ∨ i = .poll ∨ i ∈ l := by
  cases l with
  | nil => simpa [pollAgain] using h
  | cons j rest =>
    simp only [pollAgain] at h
    split at h <;> simp only [List.mem_cons] at h ⊢ <;> tauto

/-- Everything a read of `POLL` can do: it changes the read port and the coming moves, these only while the call has not
ended. -/
theorem poll_cases (s : State) :
    ∃ moves, poll s = .next { s with rdata := statusWord s, inputs := moves } ∧
      (((s.seq.phase = .done ∨ s.seq.phase = .err) ∧ moves = s.inputs) ∨
        (¬(s.seq.phase = .done ∨ s.seq.phase = .err) ∧ moves = pollAgain s.inputs)) := by
  unfold poll
  split
  · exact ⟨s.inputs, rfl, .inl ⟨‹_›, rfl⟩⟩
  · exact ⟨pollAgain s.inputs, rfl, .inr ⟨‹_›, rfl⟩⟩

/-- A byte read always goes on and leaves all but the read port and the draw counter. -/
theorem readByte_cases (offset : BitVec 6) (s : State) :
    ∃ v draws, readByte offset s = .next { s with rdata := v, draws } := by
  unfold readByte
  rcases s.hostRead_state (Reg.ofByte offset) with h | h
  · exact ⟨_, s.draws, by simp only [h]; rfl⟩
  · exact ⟨_, s.draws + 1, by simp only [h]; rfl⟩

/-- A narrow write in the window is a host write of the register that holds the byte. -/
theorem writeNarrow_in_window (offset : BitVec 7) (width : Narrow) (value : U64) (s : State)
    (h : offset.toNat < 0x40) :
    writeNarrow offset width value s = s.hostWrite (width.extend value) (Reg.ofByte (offset.setWidth 6)) := if_pos h

end Sys2Proof.Machine
end

