-- ==== Sys2Proof/Tests/Slice0.lean ====
section
/-! SUPPORT. The model's own tests: words written out from the spec's encodings, the worked examples of the rules (the
expected values are the spec's), and for each statement with hypotheses a state that meets them. -/

namespace Sys2Proof.Tests

open Sys2Proof.Machine

set_option Elab.async false

/-! ### Helpers -/

/-- One field of a next state. -/
def after {α : Type} (o : Host.Outcome State Fault Refusal) (f : State → α) : Option α :=
  match o with
  | .next t => some (f t)
  | .fault _ => none
  | .refused _ => none

/-- The bytes `i mod 256` that the spec's examples use. -/
def counting (n : Nat) : List Byte := (List.range n).map fun i => BitVec.ofNat 8 i

/-- A request for `len` bytes under the default secret. -/
def request (len seed : U64) (op : Op) : Request :=
  { op, secretEn := false, ovrEn := false, inNull := false, seed, len, secretLen := 0 }

/-- A state in the middle of a call. -/
def during (p : Phase) (r : Request) (input secret : List Byte) : State :=
  { State.reset with
    req := r
    inMem := Memory.fill [] input
    secMem := Memory.fill [] secret
    status := { err := .none, bucket := if p.beforeBucket then none else some r.bucket, ovrUsed := false, hexValid := false }
    seq := { phase := p, blk := 0, str := 0 } }

/-- A call of `bytes` at phase SHORT. -/
def shortCall (bytes : List Byte) (seed : U64) : State :=
  during .short (request (BitVec.ofNat 64 bytes.length) seed .hash) bytes []

/-- A long call of 241 counting bytes under the default secret. -/
def longCall (p : Phase) : State := during p (request 241 0 .hash) (counting 241) []

def hello : List Byte := [0x68, 0x65, 0x6c, 0x6c, 0x6f]
def helloWorld : List Byte := [0x48, 0x65, 0x6c, 0x6c, 0x6f, 0x2c, 0x20, 0x77, 0x6f, 0x72, 0x6c, 0x64, 0x21]

/-! ### Well-formedness: each check refuses an ill-formed term -/

theorem test_wr_offset_past_window_is_ill_formed : (Instr.wr 0x40 0).wellFormed = false := by decide
theorem test_wr_unlisted_offset_is_ill_formed : (Instr.wr 0x01 0).wellFormed = false := by decide
theorem test_rd_unlisted_offset_is_ill_formed : (Instr.rd 0x39).wellFormed = false := by decide
theorem test_listed_offsets_are_well_formed :
    (Instr.wr 0x00 7).wellFormed = true ∧ (Instr.rd 0x38).wellFormed = true := by decide

/-! ### Decoding: words from `30_encoding.md` -/

/-- R40, R60: `HEX` has the offsets `0x30 .. 0x3F`; a read needs eight bytes of the window. -/
theorem test_decode_hex_offsets :
    decode ⟨.hostacc, 0b1_0111111 * 2 ^ 64 + 5⟩ = .ok (.wr 0x3F 5) ∧
      decode ⟨.hostacc, 0b0_0110001 * 2 ^ 64⟩ = .ok (.rd 0x31) ∧
      decode ⟨.hostacc, 0b0_0111001 * 2 ^ 64⟩ = .error .noSuchOffset := by decide
/-- R60: bit 71, seven offset bits, 64 value bits. -/
theorem test_decode_wr : decode ⟨.hostacc, 0b1_0011000 * 2 ^ 64 + 5⟩ = .ok (.wr 0x18 5) := by decide
theorem test_decode_rd : decode ⟨.hostacc, 0b0_0101000 * 2 ^ 64⟩ = .ok (.rd 0x28) := by decide
theorem test_decode_rd_with_value : decode ⟨.hostacc, 0b0_0101000 * 2 ^ 64 + 1⟩ = .error .readWithValue := by decide
theorem test_decode_unlisted_offset : decode ⟨.hostacc, 0b1_0000001 * 2 ^ 64⟩ = .error .noSuchOffset := by decide
theorem test_decode_too_wide : decode ⟨.fmix, 0b100⟩ = .error .tooWide := by decide
/-- R61: `OP` bit 0, `SECRET_EN` bit 1, `OVR_EN` bit 2, `IN_NULL` bit 3. -/
theorem test_decode_hash : decode ⟨.cmd, 0b1010⟩ = .ok (.hash true false true) := by decide
theorem test_decode_hashHex : decode ⟨.cmd, 0b0101⟩ = .ok (.hashHex false true false) := by decide
theorem test_decode_cmd_reserved : decode ⟨.cmd, 2 ^ 63 + 0b10000⟩ = .ok (.hash false false false) := by decide
/-- R64: `ovr_en || BUCKET`. -/
theorem test_decode_dsel :
    decode ⟨.dsel, 0b0000⟩ = .ok .len0 ∧ decode ⟨.dsel, 0b0001⟩ = .ok .len1_3 ∧
    decode ⟨.dsel, 0b0010⟩ = .ok .len4_8 ∧ decode ⟨.dsel, 0b0011⟩ = .ok .len9_16 ∧
    decode ⟨.dsel, 0b0100⟩ = .ok .len17_128 ∧ decode ⟨.dsel, 0b0101⟩ = .ok .len129_240 ∧
    decode ⟨.dsel, 0b0110⟩ = .ok .long ∧ decode ⟨.dsel, 0b1110⟩ = .ok .longOvr ∧
    decode ⟨.dsel, 0b1101⟩ = .ok .len129_240 := by decide
theorem test_decode_dsel_seven :
    decode ⟨.dsel, 0b0111⟩ = .error .notAnOperation ∧ decode ⟨.dsel, 0b1111⟩ = .error .notAnOperation := by decide
/-- R65. -/
theorem test_decode_phase :
    decode ⟨.phase, 0⟩ = .ok .idle ∧ decode ⟨.phase, 1⟩ = .ok .check ∧ decode ⟨.phase, 2⟩ = .ok .dispatch ∧
    decode ⟨.phase, 3⟩ = .ok .short ∧ decode ⟨.phase, 4⟩ = .ok .seedmix ∧ decode ⟨.phase, 5⟩ = .ok .ovrWait ∧
    decode ⟨.phase, 6⟩ = .ok .accInit ∧ decode ⟨.phase, 7⟩ = .ok .stripe ∧ decode ⟨.phase, 8⟩ = .ok .scramble ∧
    decode ⟨.phase, 9⟩ = .ok .tail ∧ decode ⟨.phase, 10⟩ = .ok .last ∧ decode ⟨.phase, 11⟩ = .ok .merge ∧
    decode ⟨.phase, 12⟩ = .ok .final ∧ decode ⟨.phase, 13⟩ = .ok .format ∧ decode ⟨.phase, 14⟩ = .ok .done ∧
    decode ⟨.phase, 15⟩ = .ok .err := by decide
/-- R67. -/
theorem test_decode_fmix :
    decode ⟨.fmix, 0b00⟩ = .ok .aval64 ∧ decode ⟨.fmix, 0b01⟩ = .ok .rrmxmx ∧ decode ⟨.fmix, 0b10⟩ = .ok .aval3 ∧
    decode ⟨.fmix, 0b11⟩ = .ok .bypass := by decide

/-! ### Table words and placed words -/

theorem test_table_words :
    decodeTableWord 72 (0b1_0010000 * 2 ^ 64 + 9) = some (.wr 0x10 9) ∧
    decodeTableWord 64 1 = some (.hashHex false false false) ∧ decodeTableWord 8 13 = some .format := by decide

theorem test_placed_wr_runs :
    after (step (State.reset.withFetchWord 72 (0b1_0010000 * 2 ^ 64 + 9))) (fun t => t.seed) = some 9 := by
  decide +kernel
theorem test_placed_command_runs :
    after (step (State.reset.withFetchWord 64 0)) (fun t => t.seq.phase) = some .check := by decide +kernel
theorem test_placed_phase_runs :
    after (step (State.reset.withFetchWord 8 1)) (fun t => t.seq.phase) = some .dispatch := by decide +kernel

/-! ### Constants and primitives (`10_state.md` R29, R31; `44_finalizer.md`) -/

/-- R29: the sum of the 192 bytes, their number, the first and the last. -/
theorem test_default_table :
    (ksecretTable.map BitVec.toNat).sum = 26096 ∧ ksecretTable.length = 192 ∧
      ksecretTable.foldl (· ^^^ ·) 0 = 0x46 ∧ ksecret 0 = 0xb8 ∧ ksecret 191 = 0x7e := by decide +kernel
/-- R91: two words of the table. -/
theorem test_le64_of_default_table :
    le64 ksecret 56 = 0x4C263A81E69035E0 ∧ le64 ksecret 64 = 0xCB00C391BB52283C := by decide +kernel
/-- R94. -/
theorem test_mulFold_and_swap64 :
    mulFold 0x10A25F14862E5CF1 0x8E32D04966E17216 = 0x37A755F8459D40CB ∧
      swap64 0x10A25F14862E5CF1 = 0xF15C2E86145FA210 := by decide +kernel
/-- R95, with a seed. -/
theorem test_mix16 : mix16 (Memory.fill [] (counting 16)).read ksecret 0x702 0 0 = 0x3398DC2CE18F31FC := by
  decide +kernel

/-! ### Host accesses -/

theorem test_wr_len : after (exec (.wr 0x18 5) State.reset) (fun t => t.len) = some 5 := by decide +kernel
/-- R174: a command while a call runs is ignored. -/
theorem test_wr_cmd_while_busy :
    after (exec (.wr 0x00 1) (longCall .tail)) (fun t => decide (t = longCall .tail)) = some true := by decide +kernel
/-- R36: the status word after reset. -/
theorem test_rd_status : after (exec (.rd 0x08) State.reset) (fun t => t.rdata) = some 0x70 := by decide +kernel
/-- A `HASH_HEX` call that has ended, its rendering that of R145's example. -/
def hexDone : State :=
  { during .done (request 13 0 .hashHex) [] [] with
    hex := #v[0x66, 0x33, 0x63, 0x33, 0x34, 0x62, 0x66, 0x31, 0x31, 0x39, 0x31, 0x35, 0x65, 0x38, 0x36, 0x39]
    status := { err := .none, bucket := some .len9_16, ovrUsed := false, hexValid := true } }

/-- R145: the two words of `"f3c34bf11915e869"`. -/
theorem test_rd_hex : after (exec (.rd 0x38) hexDone) (fun t => t.rdata) = some 0x3936386535313931 := by
  decide +kernel
/-- R25, R40, R42: `HEX` is reached at each of its offsets; eight characters from the second one on. -/
theorem test_rd_hex_inner : after (exec (.rd 0x31) hexDone) (fun t => t.rdata) = some 0x3131666234336333 := by
  decide +kernel
/-- R66: a write to `HEX`, whichever of its bytes it is aimed at, is ignored. -/
theorem test_wr_hex_inner_ignored :
    after (exec (.wr 0x39 5) hexDone) (fun t => decide (t = hexDone)) = some true ∧
      after (step { hexDone with inputs := [.writeNarrow 0x31 .bits8 5] }) (fun t => decide (t = hexDone)) = some true := by
  decide +kernel
/-- R84, first row: BUSY, no error, bucket 7, both valid bits clear. -/
theorem test_hash_starts_call :
    after (exec (.hash true false false) { State.reset with secretLen := 135 }) statusWord = some 0x71 := by
  decide +kernel
theorem test_hashHex_latches :
    after (exec (.hashHex false true false) { State.reset with len := 241, seed := 7 }) (fun t => t.req) =
      some { op := .hashHex, secretEn := false, ovrEn := true, inNull := false, seed := 7, len := 241, secretLen := 0 } := by
  decide +kernel

/-! ### Sequencing (`60_exceptions.md` R151 to R153, `40_dispatch.md` R78, R84) -/

theorem test_idle_waits : after (exec .idle State.reset) (fun t => decide (t = State.reset)) = some true := by
  decide +kernel
theorem test_done_waits :
    after (exec .done (longCall .done)) (fun t => decide (t = longCall .done)) = some true := by decide +kernel
theorem test_err_waits : after (exec .err (longCall .err)) (fun t => decide (t = longCall .err)) = some true := by
  decide +kernel
/-- R151: 135 bytes fail; R153: `InvalidSecret` wins. -/
theorem test_check_short_secret :
    after (exec .check (during .check { request 0 0 .hash with secretEn := true, secretLen := 135, inNull := true } [] []))
      statusWord = some 0x77 := by decide +kernel
/-- R152; a secret of 136 bytes passes. -/
theorem test_check_absent_input :
    after (exec .check (during .check { request 0 0 .hash with secretEn := true, secretLen := 136, inNull := true } [] []))
      statusWord = some 0x7B := by decide +kernel
/-- R78: 240 is the last short length. -/
theorem test_dispatch_240 :
    after (exec .dispatch (during .dispatch (request 240 1 .hash) [] [])) (fun t => (t.status.bucket, t.seq.phase)) =
      some (some .len129_240, .short) := by decide +kernel
theorem test_dispatch_241 :
    after (exec .dispatch (during .dispatch (request 241 1 .hash) [] [])) (fun t => (t.status.bucket, t.seq.phase)) =
      some (some .long, .seedmix) := by decide +kernel

/-! ### The short buckets (`41_short.md`, the worked examples) -/

theorem test_len0 : after (exec .len0 (shortCall [] 0)) (fun t => t.pre) = some 0x8726F9105DC21DDC := by decide +kernel
theorem test_len0_seeded : after (exec .len0 (shortCall [] 0x702)) (fun t => t.pre) = some 0x8726F9105DC21ADE := by
  decide +kernel
theorem test_len1_3 : after (exec .len1_3 (shortCall [0] 0)) (fun t => t.pre) = some 0x0000000087275B9B := by
  decide +kernel
theorem test_len1_3_abc :
    after (exec .len1_3 (shortCall [0x61, 0x62, 0x63] 1)) (fun t => t.pre) = some 0x00000000E54659FF := by
  decide +kernel
theorem test_len4_8 : after (exec .len4_8 (shortCall hello 0)) (fun t => t.pre) = some 0xAB56D41CAA80B9C7 := by
  decide +kernel
theorem test_len4_8_seeded :
    after (exec .len4_8 (shortCall hello 0x702)) (fun t => t.pre) = some 0xA95FD41CAA80A2C5 := by decide +kernel
theorem test_len9_16_seeded :
    after (exec .len9_16 (shortCall helloWorld 0x702)) (fun t => t.pre) = some 0x58B4C723CFE775B1 := by decide +kernel
/-- A custom secret of 136 zero bytes. -/
theorem test_len9_16_zero_secret :
    after
      (exec .len9_16
        (during .short { request 13 0 .hash with secretEn := true, secretLen := 136 } helloWorld (List.replicate 136 0)))
      (fun t => t.pre) = some 0xC7546AB2CF572943 := by decide +kernel
theorem test_len17_128 :
    after (exec .len17_128 (shortCall (counting 17) 0)) (fun t => t.pre) = some 0xD59320ABA8D4C7CC := by decide +kernel
theorem test_len129_240_first :
    after (exec .len129_240 (shortCall (counting 129) 0)) (fun t => t.pre) = some 0xAC921EA17AC8BF2B := by decide +kernel
theorem test_short_selects_bucket :
    after (exec .short (shortCall hello 0)) (fun t => (t.pre, t.seq.phase)) = some (0xAB56D41CAA80B9C7, .final) := by
  decide +kernel

/-! ### The derived secret (`43_seedmixer.md` R126) -/

theorem test_seedmix_default_table :
    after (exec .seedmix (during .seedmix (request 241 1 .hash) [] [])) (fun t => (List.range 16).map t.esecMem.read) =
      some [0xb9, 0xfe, 0x6c, 0x39, 0x23, 0xa4, 0x4b, 0xbe, 0x7b, 0x01, 0x81, 0x2c, 0xf7, 0x21, 0xad, 0x1c] := by
  decide +kernel
/-- 140 bytes `3i+5`: lane 16 gains the seed, the four trailing bytes are copied. -/
theorem test_seedmix_trailing_bytes :
    after
      (exec .seedmix
        (during .seedmix { request 241 1 .hash with secretEn := true, secretLen := 140 } []
          ((List.range 140).map fun i => BitVec.ofNat 8 (3 * i + 5))))
      (fun t => (List.range 12).map fun k => t.esecMem.read (128 + k)) =
      some [0x86, 0x88, 0x8b, 0x8e, 0x91, 0x94, 0x97, 0x9a, 0x9d, 0xa0, 0xa3, 0xa6] := by decide +kernel

/-! ### The long path (`42_long.md`, the worked examples for `L = 241`) -/

def lanesFirst : Vector U64 8 :=
  #v[0x3959FC0465D0644D, 0xA84604CF318F0543, 0xA9ED5A143ADEB6E9, 0x2DC7A091694F50D7, 0xDE29D3C6FB58A383,
    0x2C07611F142C9457, 0x9ABB4D50A52D2395, 0x9ADE679E5A8F0E59]
def lanesLast : Vector U64 8 :=
  #v[0x4AF8CD31E13B3E32, 0xABB3FD376B1E52E4, 0xC50D0CF5A4BBA990, 0x964F95E1D75555FC, 0xFAE93D68C0A76E4B,
    0xBA1DD8F6C4AE4946, 0x5CF7A2E0D0DFAEE7, 0x6D4E46BC9CC12BF4]

theorem test_accInit :
    after (exec .accInit (longCall .accInit)) (fun t => (t.acc, t.seq.phase)) =
      some
        (#v[0x00000000C2B2AE3D, 0x9E3779B185EBCA87, 0xC2B2AE3D27D4EB4F, 0x165667B19E3779F9, 0x85EBCA77C2B2AE63,
          0x0000000085EBCA77, 0x27D4EB2F165667C5, 0x000000009E3779B1], .tail) := by decide +kernel
/-- R107: the lanes after the first stripe. -/
theorem test_stripe :
    after (exec .stripe { during .stripe (request 1025 0 .hash) (counting 64) [] with acc := initialLanes })
      (fun t => (t.acc, t.seq)) = some (lanesFirst, { phase := .stripe, blk := 0, str := 1 }) := by decide +kernel
theorem test_tail :
    after (exec .tail { longCall .tail with acc := initialLanes }) (fun t => (t.acc, t.seq)) =
      some (lanesFirst, { phase := .tail, blk := 0, str := 1 }) := by decide +kernel
/-- R108: the lanes after a scramble of the initial ones. -/
theorem test_scramble :
    after (exec .scramble { during .scramble (request 1025 0 .hash) [] [] with acc := initialLanes })
      (fun t => (t.acc, t.seq)) =
      some
        (#v[0x8D4B7E0044322EA7, 0x714C66898244316C, 0x7C7158928ACF722D, 0xADD99E8723A505A6, 0xF19114F2B68857EF,
          0x664E6DC4A3E57578, 0x6534CB20A7767059, 0x91D5730A4C4290BE], { phase := .last, blk := 1, str := 0 }) := by
  decide +kernel
theorem test_merge :
    after (exec .merge { longCall .merge with acc := lanesLast }) (fun t => t.pre) = some 0xCFFC5D51FAE0F1E5 := by
  decide +kernel
/-- R113, example 1. -/
theorem test_long :
    after (exec .long (longCall .accInit)) (fun t => t.result) = some 0x02E8CD95421C6D02 := by decide +kernel

/-! ### Finalizer and formatter -/

theorem test_aval64 :
    after (exec .aval64 { shortCall [] 0 with pre := 0x0123456789ABCDEF }) (fun t => t.result) =
      some 0xB84DA6F78DBF6DE2 := by decide +kernel
theorem test_rrmxmx :
    after (exec .rrmxmx { during .final (request 4 0 .hash) [] [] with pre := 0 }) (fun t => t.result) =
      some 0x7EC8719396E465D3 := by decide +kernel
theorem test_aval3 :
    after (exec .aval3 { shortCall [] 0 with pre := 0x0123456789ABCDEF }) (fun t => t.result) =
      some 0x653196EE4F4A174A := by decide +kernel
/-- R138: bucket 2 is finished by `RRMXMX`. -/
theorem test_final_hello :
    after (exec .final { during .final (request 5 0 .hash) hello [] with pre := 0xAB56D41CAA80B9C7 })
      (fun t => (t.result, statusWord t)) = some (0x9555E8555C62DCFD, 0x22) := by decide +kernel
theorem test_format :
    after (exec .format { during .format (request 13 0 .hashHex) [] [] with result := 0xABCDEF0123456789 })
      (fun t => t.hex.toList) =
      some [0x61, 0x62, 0x63, 0x64, 0x65, 0x66, 0x30, 0x31, 0x32, 0x33, 0x34, 0x35, 0x36, 0x37, 0x38, 0x39] := by
  decide +kernel

/-! ### Polling (`30_encoding.md` R70) -/

/-- Between two reads of `POLL` the unit may answer, and does so when its answer is the next move. -/
theorem test_poll_lets_the_unit_answer :
    after (step { longCall .ovrWait with inputs := [.poll, .answer 7, .access (encodeRd 0x28)] }) (fun t => t.inputs) =
      some [.answer 7, .poll, .access (encodeRd 0x28)] := by decide +kernel
theorem test_poll_lets_the_datapath_step :
    after (step { longCall .check with inputs := [.poll, .access (encodeRd 0x28)] }) (fun t => t.inputs) =
      some [.datapath, .poll, .access (encodeRd 0x28)] := by decide +kernel

/-! ### The override (`40_dispatch.md` R81) -/

/-- A long call with override whose unit has been asked. -/
def asked (answer : Option U64) : State :=
  { during .ovrWait { request 241 0 .hash with ovrEn := true } [] [] with
    ovr := some { len := 241, seed := 0, secret := defaultSecret }
    answer }

theorem test_ovrWait_answered :
    after (exec .ovrWait (asked (some 0x1122334455667788))) (fun t => (t.result, statusWord t, t.ovr)) =
      some (0x1122334455667788, 0xE2, none) := by decide +kernel
/-- With a seed and no derivation yet to run, the unit is shown `ESEC`. -/
theorem test_longOvr_asks :
    after (exec .longOvr (during .ovrWait { request 241 7 .hash with ovrEn := true } [] [])) (fun t => t.ovr) =
      some (some { len := 241, seed := 7, secret := { space := .esec, len := 192 } }) := by decide +kernel
theorem test_bypass :
    after (exec .bypass (asked (some 0x1122334455667788))) (fun t => t.result) = some 0x1122334455667788 := by
  decide +kernel

/-! ### Witnesses: the hypotheses of the statements are met, each clause at a boundary of its range -/

/-- A state in the middle of a call, before its result, meets the invariant when its request fits the phase. -/
theorem during_inv (p : Phase) (r : Request) (input secret : List Byte) (hp : p ≠ .format ∧ p ≠ .done ∧ p ≠ .err)
    (h : (during p r input secret).phaseOk) : (during p r input secret).Inv where
  memories := ⟨Memory.wf_fill _ _ Memory.wf_nil, Memory.wf_fill _ _ Memory.wf_nil, Memory.wf_nil⟩
  phase := h
  err := ⟨fun h => absurd rfl h, fun h => absurd h hp.2.2⟩
  bucket := rfl
  ovrUsed := ⟨fun h => (by cases h), fun ⟨h, _⟩ => h.elim (fun h => absurd h hp.1) fun h => absurd h hp.2.1⟩
  hexValid := ⟨fun h => (by cases h), fun ⟨h, _⟩ => absurd h hp.2.1⟩
  hex := fun h => (by cases h)
  ovr := fun _ h => (by cases h)
  answer := fun h => absurd rfl h

/-- A state that waits after reset, whatever the host has written, meets the invariant. -/
theorem waiting_inv (len secretLen seed : U64) (m : Memory) (hm : m.wf) :
    State.Inv { State.reset with len, secretLen, seed, inMem := m } where
  memories := ⟨hm, Memory.wf_nil, Memory.wf_nil⟩
  phase := trivial
  err := ⟨fun h => absurd rfl h, fun h => (by cases h)⟩
  bucket := rfl
  ovrUsed := ⟨fun h => (by cases h), fun ⟨h, _⟩ => (by rcases h with h | h <;> cases h)⟩
  hexValid := ⟨fun h => (by cases h), fun ⟨h, _⟩ => (by cases h)⟩
  hex := fun h => (by cases h)
  ovr := fun _ h => (by cases h)
  answer := fun h => absurd rfl h

theorem witness_DecodeOfEncodeGivesBack : (Instr.wr 0x38 0xFFFFFFFFFFFFFFFF).wellFormed = true := by decide
theorem witness_DecodedCodeMatchesItsTableRow :
    decode ⟨.dsel, 0b1101⟩ = .ok .len129_240 ∧ decode ⟨.cmd, 2 ^ 64 - 2⟩ = .ok (.hash true true true) := by decide
theorem witness_CommandWordReservedBitsIgnored :
    (15 : U64).toNat % 16 = (0xFFFFFFFFFFFFFFFF : U64).toNat % 16 := by decide
theorem witness_StepRunsDecodedOperation :
    (State.reset.inputs = [] ∧ decode State.reset.phaseCode = .ok .idle) ∧
      decode ⟨.hostacc, (encodeRd 0x38).toNat⟩ = .ok (.rd 0x38) ∧
      decode ⟨.cmd, (0xFFFFFFFFFFFFFFFF : U64).toNat⟩ = .ok (.hashHex true true true) := by decide
theorem witness_StepStopsOnlyAtTheseMoves :
    (∃ f, step { State.reset with inputs := [.access (encodeWr 0x40 0)] } = .fault f) ∧
      (∃ f, step { State.reset with inputs := [.writeNarrow 0x40 .bits8 0] } = .fault f) ∧
      (∃ r, step { longCall .tail with inputs := [.ldin [0]] } = .refused r) ∧
      ∃ r, step { State.reset with cfg := { policy := .doc, secretMax := 0 }, inputs := [.ldsec [0]] } = .refused r :=
  ⟨⟨_, rfl⟩, ⟨_, rfl⟩, ⟨_, rfl⟩, ⟨_, rfl⟩⟩

/-- `SEC` holds exactly the secret. -/
def atCapacity (secretLen : U64) : State :=
  { State.reset with secretLen, cfg := { policy := .doc, secretMax := 136 } }

theorem witness_CommandStartsCall :
    Reference.ready (atCapacity 136) true ∧ Reference.ready (atCapacity 137) false ∧
      (0xFFFFFFFFFFFFFFF3 : U64).toNat % 16 =
        true.toNat + 2 * true.toNat + 4 * false.toNat + 8 * false.toNat := by
  refine ⟨⟨by decide, fun _ => by decide⟩, ⟨by decide, fun h => (by cases h)⟩, by decide⟩
theorem witness_CommandWhileBusyIgnored :
    (statusWord (during .check (request 0 0 .hash) [] [])).toNat % 4 = 1 ∧
      (statusWord (during .format (request 0 0 .hashHex) [] [])).toNat % 4 = 1 := by decide
theorem witness_SecretBeyondCapacityRefused :
    Reference.stateCode (atCapacity 137).seq.phase.code ≠ 1 ∧
      (atCapacity 137).cfg.secretMax < (atCapacity 137).secretLen.toNat := by decide
theorem witness_HostReadReturnsRegister :
    (hexDone.seq.phase = .done ∧ hexDone.status.hexValid = true) ∧
      (during .done (request 0 0 .hash) [] []).seq.phase = .done := by decide
theorem witness_EarlyReadIsFreeAndHarmless :
    State.reset.seq.phase ≠ .done ∧
      ¬((during .done (request 0 0 .hash) [] []).seq.phase = .done ∧
        (during .done (request 0 0 .hash) [] []).status.hexValid = true) := by decide
theorem witness_UnlistedOffsetsFault :
    ¬Reference.isRegisterOffset (0x01 : BitVec 7).toNat ∧ ¬Reference.isRegisterOffset (0x2F : BitVec 7).toNat ∧
      ¬Reference.isRegisterOffset (0x40 : BitVec 7).toNat ∧ ¬Reference.isReadOffset (0x39 : BitVec 7).toNat := by
  simp [Reference.isReadOffset, Reference.isRegisterOffset]
theorem witness_NarrowAccessesAreExtended :
    { State.reset with inputs := [.readByte 63] }.inputs = [.readByte 63] ∧
      { State.reset with inputs := [.writeNarrow 0x3F .bits8 0x1FF] }.inputs = [.writeNarrow 0x3F .bits8 0x1FF] ∧
      { State.reset with inputs := [.writeNarrow 0x20 .bits16 0x1FFFF] }.inputs = [.writeNarrow 0x20 .bits16 0x1FFFF] ∧
      { State.reset with inputs := [.writeNarrow 0x21 .bits32 0x1FFFFFFFF] }.inputs =
        [.writeNarrow 0x21 .bits32 0x1FFFFFFFF] ∧
      { State.reset with inputs := [.writeNarrow 0x40 .bits32 0] }.inputs = [.writeNarrow 0x40 .bits32 0] ∧
      (0x3F : BitVec 7).toNat < 0x40 ∧ 0x40 ≤ (0x40 : BitVec 7).toNat := by decide
theorem witness_LoadsFillBuffers :
    Reference.stateCode State.reset.seq.phase.code ≠ 1 ∧ [0xFF, 0].length ≤ State.reset.cfg.secretMax ∧
      Reference.stateCode (during .check { request 1 0 .hash with secretEn := true, secretLen := 1 } [] []).seq.phase.code
        = 1 := by decide
theorem witness_CheckTestsSecretThenInput :
    (true = true ∧ (135 : U64).toNat < 136) ∧ ¬(true = true ∧ (136 : U64).toNat < 136) := by decide
theorem witness_FailedCheckEndsInErr :
    Reference.ready (atCapacity 135) true ∧ (atCapacity 135).inputs = [] ∧ (atCapacity 135).secretLen.toNat < 136 :=
  ⟨⟨by decide, fun _ => by decide⟩, rfl, by decide⟩
theorem witness_ErrIsEnteredOnlyFromCheck :
    ∃ t, step (during .check { request 0 0 .hash with inNull := true } [] []) = .next t ∧ t.seq.phase = .err ∧
      (during .check { request 0 0 .hash with inNull := true } [] []).seq.phase ≠ .err :=
  ⟨_, rfl, by decide, by decide⟩
theorem witness_WaitingPhasesDoNothing :
    Reference.stateCode State.reset.seq.phase.code ≠ 1 ∧ State.reset.inputs = [] := by decide
theorem witness_DispatchChoosesBucketAndPhase :
    (request 240 0 .hash).len.toNat ≤ 240 ∧ 240 < (request 241 1 .hash).len.toNat ∧ (request 241 1 .hash).seed ≠ 0 ∧
      (request 241 1 .hash).secretEn = false ∧ (request 241 0 .hash).seed = 0 := by decide
theorem witness_DatapathWritesNoHostState :
    (longCall .check).inputs = [] ∧ ∃ t, step (longCall .check) = .next t := ⟨rfl, _, rfl⟩
theorem witness_HostMovesDoNotDisturbRunningCall :
    Reference.stateCode (longCall .check).seq.phase.code = 1 ∧
      ∃ t, step { longCall .check with inputs := [.access (encodeWr 0x10 5)] } = .next t := ⟨by decide, _, rfl⟩
theorem witness_Len0Hashes : (request 0 0 .hash).len.toNat = 0 := by decide
theorem witness_Len1To3Hashes : 1 ≤ (request 1 0 .hash).len.toNat ∧ (request 3 0 .hash).len.toNat ≤ 3 := by
  decide
theorem witness_Len4To8Hashes : 4 ≤ (request 4 0 .hash).len.toNat ∧ (request 8 0 .hash).len.toNat ≤ 8 := by
  decide
theorem witness_Len9To16Hashes : 9 ≤ (request 9 0 .hash).len.toNat ∧ (request 16 0 .hash).len.toNat ≤ 16 := by
  decide
theorem witness_Len17To128Hashes : 17 ≤ (request 17 0 .hash).len.toNat ∧ (request 128 0 .hash).len.toNat ≤ 128 := by
  decide
theorem witness_Len129To240Hashes : 129 ≤ (request 129 0 .hash).len.toNat ∧ (request 240 0 .hash).len.toNat ≤ 240 := by
  decide
theorem witness_SeededShortCallIgnoresCustomSecret :
    (shortCall hello 1).req.seed ≠ 0 ∧ (shortCall hello 1).req.len.toNat ≤ 240 := by decide
theorem witness_SeededBucketFourEqualsMixedTable : 17 ≤ (17 : U64).toNat ∧ (128 : U64).toNat ≤ 128 := by decide

/-- A call that derives its secret from a custom one of 140 bytes. -/
def mixing (p : Phase) : State :=
  during p { request 241 1 .hash with secretEn := true, secretLen := 140 } [] []

theorem witness_SeedmixWritesEveryLane :
    16 < (Reference.mixSource (mixing .seedmix)).2 / 8 ∧
      8 * ((Reference.mixSource (mixing .seedmix)).2 / 8) ≤ 136 ∧ 139 < (Reference.mixSource (mixing .seedmix)).2 ∧
      (Reference.mixSource (mixing .seedmix)).2 ≤ 140 := by
  have h : (Reference.mixSource (mixing .seedmix)).2 = 140 := rfl
  rw [h]
  decide
theorem witness_SeedmixIsUndoneByTheNegatedSeed : (1 : U64) ≠ 0 ∧ 16 < 140 / 8 ∧ 139 < 140 := by decide
theorem witness_EffectiveSecretFollowsPolicy :
    (mixing .seedmix).req.seed ≠ 0 ∧ (mixing .seedmix).cfg.policy ≠ .canonSecretAndSeed ∧
      (longCall .seedmix).req.secretEn = false := by decide
theorem witness_GeometryBounds : 240 < 241 ∧ 136 ≤ 136 := by decide

/-- A long call of 1025 bytes at the first stripe of its only block. -/
def blockCall (p : Phase) : State := during p (request 1025 0 .hash) [] []

theorem witness_StripePhasesAccumulate :
    (240 < (blockCall .stripe).req.len.toNat ∧ 136 ≤ (Reference.secret (blockCall .stripe)).2 ∧
        (blockCall .stripe).seq.blk.toNat < Reference.nblk 1025 (Reference.secret (blockCall .stripe)).2 ∧
        (blockCall .stripe).seq.str.toNat < Reference.nspb (Reference.secret (blockCall .stripe)).2) ∧
      240 < (longCall .tail).req.len.toNat ∧ 136 ≤ (Reference.secret (longCall .tail)).2 ∧
      (longCall .tail).seq.str.toNat < Reference.nst 241 (Reference.secret (longCall .tail)).2 := by
  have h : (Reference.secret (blockCall .stripe)).2 = 192 := rfl
  have h' : (Reference.secret (longCall .tail)).2 = 192 := rfl
  rw [h, h']
  decide
theorem witness_ScrambleMixesEveryLane :
    240 < (blockCall .scramble).req.len.toNat ∧ 136 ≤ (Reference.secret (blockCall .scramble)).2 ∧
      (blockCall .scramble).seq.blk.toNat < Reference.nblk 1025 (Reference.secret (blockCall .scramble)).2 := by
  have h : (Reference.secret (blockCall .scramble)).2 = 192 := rfl
  rw [h]
  decide
theorem witness_LongIsTheComposition :
    240 < (longCall .accInit).req.len.toNat ∧ 136 ≤ (Reference.secret (longCall .accInit)).2 :=
  ⟨by decide, by decide +kernel⟩
theorem witness_LanesAreIndependent :
    (initialLanes)[(0 : Fin 8)] = (initialLanes.set 1 0)[(0 : Fin 8)] ∧
      le64 (fun _ => 1) (0 + 8 * 0) = le64 (fun _ => 1) (64 + 8 * 0) := by decide +kernel
theorem witness_LongEqualsItsPhases :
    (longCall .accInit).Inv ∧ (longCall .accInit).seq.phase = .accInit ∧ (longCall .accInit).inputs = [] :=
  ⟨during_inv _ _ _ _ (by decide) ⟨by decide, by decide, by decide⟩, rfl, rfl⟩
theorem witness_FinalAppliesTheBucketsMixer :
    ¬(240 < (request 3 0 .hash).len.toNat ∧ (request 3 0 .hash).ovrEn = true) ∧
      ¬(240 < (request 241 0 .hash).len.toNat ∧ (request 241 0 .hash).ovrEn = true) := by decide
theorem witness_OverridePortTransitions :
    (during .ovrWait { request 241 0 .hash with ovrEn := true } [] []).ovr = none ∧
      ((asked (some 7)).ovr ≠ none ∧ (asked (some 7)).answer = some 7) ∧
      (asked none).ovr ≠ none ∧ (asked none).answer = none := by decide
theorem witness_OverrideAnswerIsTheResult :
    State.Inv { State.reset with len := 241, secretLen := 136, seed := 1, inMem := [] } ∧
      Reference.ready { State.reset with len := 241, secretLen := 136, seed := 1, inMem := [] } true ∧
      240 < (241 : U64).toNat ∧ 136 ≤ (136 : U64).toNat :=
  ⟨waiting_inv _ _ _ _ Memory.wf_nil, ⟨by decide, fun _ => by decide⟩, by decide, by decide⟩
theorem witness_UnansweredOverrideNeverEnds :
    ((asked none).seq.phase = .ovrWait ∧ (asked none).ovr ≠ none ∧ (asked none).answer = none) ∧
      ∃ t, run 3 { asked none with inputs := [.poll, .command 1] } = .next t := ⟨by decide, _, rfl⟩
theorem witness_ResetState :
    { longCall .tail with inputs := [.reset] }.inputs = [.reset] ∧
      ∃ t, step { longCall .tail with inputs := [.reset, .answer 1] } = .next t ∧ t.inputs = [.answer 1] :=
  ⟨rfl, _, rfl, rfl⟩
theorem witness_StepKeepsInvariant :
    (longCall .accInit).Inv ∧ ∃ t, step (longCall .accInit) = .next t :=
  ⟨witness_LongEqualsItsPhases.1, _, rfl⟩
theorem witness_StepReadsOnlyTheBuffersInUse :
    (during .short (request 1 0 .hash) [7] []).Inv ∧ (during .short (request 1 0 .hash) [7] []).inputs = [] ∧
      (∀ k, k < 1 → Memory.read [(0, 7), (1, 9)] k = (during .short (request 1 0 .hash) [7] []).inMem.read k) ∧
      (during .short (request 1 0 .hash) [7] []).req.secretEn = false :=
  ⟨during_inv _ _ _ _ (by decide) ⟨by decide, by decide⟩, rfl, by decide, rfl⟩
theorem witness_ResultDependsOnTheRequestAlone :
    { request 1 0 .hash with secretEn := true, secretLen := 136 }.accepted = true ∧
      (∀ k, k < 1 → (fun _ => 0 : Bytes) k = (fun j => if j = 0 then 0 else 1 : Bytes) k) ∧
      ∀ k, k < 136 → (fun _ => 0 : Bytes) k = (fun j => if j < 136 then 0 else 1 : Bytes) k := by decide
theorem witness_CallComputesTheHash :
    (Reference.ready (atCapacity 136) true ∧ (atCapacity 136).inputs = [] ∧ 136 ≤ (atCapacity 136).secretLen.toNat ∧
        (atCapacity 136).len.toNat ≤ 240) ∧
      Reference.ready { State.reset with len := 241 } false :=
  ⟨⟨⟨by decide, fun _ => by decide⟩, rfl, by decide, by decide⟩, by decide, fun h => (by cases h)⟩
theorem witness_HashProgramReturnsTheHash :
    Reference.stateCode State.reset.seq.phase.code ≠ 1 ∧ State.reset.Inv ∧
      { State.reset with inputs := hashProgram hello (some (List.replicate 136 0)) 0 true false [] }.inputs =
        hashProgram hello (some (List.replicate 136 0)) 0 true false [] ∧
      hello.length < 2 ^ 64 ∧ 136 ≤ (List.replicate 136 (0 : Byte)).length ∧
      (List.replicate 136 (0 : Byte)).length ≤ State.reset.cfg.secretMax ∧ 240 < (counting 241).length ∧
      (counting 241).length < 2 ^ 64 ∧
      { State.reset with
          inputs := hashProgram (counting 241) none 0 true true (List.replicate 3 Input.datapath ++ [Input.answer 7]) }.inputs =
        hashProgram (counting 241) none 0 true true (List.replicate 3 Input.datapath ++ [Input.answer 7]) :=
  ⟨by decide, waiting_inv 0 0 0 [] Memory.wf_nil, rfl, by decide, by simp, by simp [State.reset, Config.default],
    by simp [counting], by simp [counting], rfl⟩

end Sys2Proof.Tests
end

section
/-! SUPPORT. Facts about codes, phases, registers and the moves of the outside world that the statements about the state
and the register window need. -/

namespace Sys2Proof.Machine

/-! ### Codes -/

theorem runCode_of_decode {c : Code} {i : Instr} (h : decode c = .ok i) (s : State) : runCode c s = exec i s := by
  simp only [runCode, h]

@[simp] theorem decode_accessCode (w : BitVec 72) : decode (accessCode w) = decodeHostacc w := by
  have hw : w.toNat < 2 ^ Format.hostacc.width := w.isLt
  simp [decode, accessCode, hw]

@[simp] theorem decode_commandCode (w : U64) : decode (commandCode w) = .ok (decodeCmd w) := by
  have hw : w.toNat < 2 ^ Format.cmd.width := w.isLt
  simp [decode, commandCode, hw]

theorem encode_phase_instr (p : Phase) : encode p.instr = { fmt := .phase, bits := p.code } := by
  cases p <;> rfl

/-- A host access word that decodes is a write or a read at an offset of its list. -/
theorem decodeHostacc_cases {w : BitVec 72} {i : Instr} (h : decodeHostacc w = .ok i) :
    (∃ offset v, i = .wr offset v ∧ writeOffsets.contains offset = true) ∨
      ∃ offset, i = .rd offset ∧ readOffsets.contains offset = true := by
  unfold decodeHostacc at h
  dsimp only at h
  split at h
  · split at h
    · exact .inl ⟨_, _, (Except.ok.inj h).symm, ‹_›⟩
    · cases h
  · split at h
    · split at h
      · exact .inr ⟨_, (Except.ok.inj h).symm, ‹_›⟩
      · cases h
    · cases h

/-! ### Bits of a value -/

theorem getLsbD_one_iff (v : U64) : v.getLsbD 1 = true ↔ v.toNat / 2 % 2 = 1 := by
  rw [← BitVec.testBit_toNat, Nat.testBit_eq_decide_div_mod_eq]
  simp

/-- Zero-extending a narrow value keeps `SECRET_EN`, bit 1. -/
theorem Narrow.extend_getLsbD_one (width : Narrow) (v : U64) : (width.extend v).getLsbD 1 = v.getLsbD 1 := by
  rw [Narrow.extend, BitVec.getLsbD_ofNat, Nat.testBit_mod_two_pow, BitVec.testBit_toNat]
  cases width <;> simp [Narrow.bits]

/-- Only the low four bits of a command word count (`30_encoding.md` rule R61). -/
theorem CmdReg.ofWord_of_low_bits {v : U64} {hex secretEn ovrEn inNull : Bool}
    (h : v.toNat % 16 = hex.toNat + 2 * secretEn.toNat + 4 * ovrEn.toNat + 8 * inNull.toNat) :
    CmdReg.ofWord v = { op := if hex then .hashHex else .hash, secretEn, ovrEn, inNull } := by
  have low (k : Nat) (hk : k < 4) : v.getLsbD k = (v.toNat % 2 ^ 4).testBit k := by
    rw [Nat.testBit_mod_two_pow, BitVec.testBit_toNat]
    simp [hk]
  rw [CmdReg.ofWord, low 0 (by decide), low 1 (by decide), low 2 (by decide), low 3 (by decide)]
  change v.toNat % 2 ^ 4 = _ at h
  rw [h]
  cases hex <;> cases secretEn <;> cases ovrEn <;> cases inNull <;> rfl

/-! ### The bytes of a little-endian number -/

/-- Byte `j` of the number that `n` bytes spell is the byte at offset `j` (`20_memory.md` rule R41). -/
theorem leNat_div_mod (b : Bytes) (off n j : Nat) (h : j < n) :
    leNat b off n / 2 ^ (8 * j) % 2 ^ 8 = (b (off + j)).toNat := by
  induction n generalizing off j with
  | zero => omega
  | succ n ih =>
    have hb : (b off).toNat < 256 := (b off).isLt
    cases j with
    | zero => simp only [leNat, Nat.mul_zero, Nat.pow_zero, Nat.div_one, Nat.add_zero]; omega
    | succ j =>
      have hdiv : ((b off).toNat + 256 * leNat b (off + 1) n) / 2 ^ 8 = leNat b (off + 1) n := by omega
      have hpow : 2 ^ (8 * (j + 1)) = 2 ^ 8 * 2 ^ (8 * j) := by rw [← Nat.pow_add]; congr 1; omega
      rw [leNat, hpow, ← Nat.div_div_eq_div_mul, hdiv, ih _ _ (by omega)]
      congr 2; omega

theorem leNat_lt (b : Bytes) (off n : Nat) : leNat b off n < 2 ^ (8 * n) := by
  induction n generalizing off with
  | zero => simp [leNat]
  | succ n ih =>
    have hb : (b off).toNat < 256 := (b off).isLt
    have := ih (off + 1)
    rw [leNat, show 8 * (n + 1) = 8 * n + 8 by omega, Nat.pow_add]
    omega

theorem le64_div_mod (b : Bytes) (off j : Nat) (h : j < 8) :
    (le64 b off).toNat / 2 ^ (8 * j) % 2 ^ 8 = (b (off + j)).toNat := by
  rw [le64, BitVec.toNat_ofNat, Nat.mod_eq_of_lt (leNat_lt b off 8), leNat_div_mod b off 8 j h]

theorem byteOf_setWidth (v : U64) (k : Nat) :
    (byteOf v k).setWidth 64 = BitVec.ofNat 64 (v.toNat / 2 ^ (8 * k) % 2 ^ 8) := by
  apply BitVec.eq_of_toNat_eq
  rw [BitVec.toNat_setWidth, BitVec.toNat_ofNat, byteOf_toNat]
  rfl

theorem hexBytes_of_lt (hex : Vector Byte 16) (k : Nat) (h : k < 16) : hexBytes hex k = hex[k] := by
  simp [hexBytes, h]

/-! ### Phases -/

/-- `STATE` reads 1 exactly while a call runs (`30_encoding.md` rule R62). -/
theorem Phase.stateCode_eq_one_iff (p : Phase) : Reference.stateCode p.code = 1 ↔ p.busy = true := by
  cases p <;> decide

theorem Phase.stateCode_ne_one_iff (p : Phase) : Reference.stateCode p.code ≠ 1 ↔ p.busy = false := by
  rw [Ne, p.stateCode_eq_one_iff, Bool.not_eq_true]

/-- The datapath's operation always goes on. -/
theorem Phase.exec_instr_next (p : Phase) (s : State) : ∃ t, exec p.instr s = .next t := by
  cases p
  case check =>
    simp only [Phase.instr, exec, execCheck]
    split
    · exact ⟨_, rfl⟩
    · split <;> exact ⟨_, rfl⟩
  case short =>
    simp only [Phase.instr, exec, execShort]
    split
    case h_7 => split <;> exact ⟨_, rfl⟩
    all_goals exact ⟨_, rfl⟩
  case stripe =>
    simp only [Phase.instr, exec, execStripe]
    split <;> exact ⟨_, rfl⟩
  case tail =>
    simp only [Phase.instr, exec, execTail]
    split <;> exact ⟨_, rfl⟩
  case final =>
    simp only [Phase.instr, exec, execFinal]
    split <;> exact ⟨_, rfl⟩
  all_goals exact ⟨_, rfl⟩

/-- The status word is a function of the flags and the phase. -/
theorem statusWord_congr {s t : State} (hflags : s.status = t.status) (hphase : s.seq.phase = t.seq.phase) :
    statusWord s = statusWord t := by
  simp only [statusWord, hflags, hphase]

theorem statusWord_startCall (s : State) : statusWord s.startCall = 0x71 :=
  (statusWord_congr rfl rfl).trans (by decide : statusWord State.reset.startCall = 0x71)

/-! ### The registers at the offsets -/

theorem Reg.ofOffset_hex (offset : BitVec 7) (h₁ : 0x30 ≤ offset.toNat) (h₂ : offset.toNat ≤ 0x3F) :
    Reg.ofOffset offset = some (.hex (offset.toNat - 0x30)) := by
  revert offset; decide

theorem Reg.ofReadOffset_hex (k : Nat) (h : k ≤ 8) :
    Reg.ofReadOffset (BitVec.ofNat 7 (0x30 + k)) = some (.hex k) := by
  have hk : (BitVec.ofNat 7 (0x30 + k)).toNat = 0x30 + k := by rw [BitVec.toNat_ofNat]; omega
  rw [Reg.ofReadOffset_eq _ (by omega), Reg.ofOffset_hex _ (by omega) (by omega), hk, Nat.add_sub_cancel_left]

theorem Reg.ofReadOffset_of_byte (offset : BitVec 6) :
    Reg.ofReadOffset (BitVec.ofNat 7 (8 * (offset.toNat / 8))) = some (Reg.ofByte offset) := by
  have h := offset.isLt
  rw [Reg.ofReadOffset_eq _ (by rw [BitVec.toNat_ofNat]; omega), Reg.ofOffset_of_byte]

theorem Reg.eq_zero_of_ofOffset_cmd (offset : BitVec 7) (h : Reg.ofOffset offset = some .cmd) : offset = 0 := by
  revert offset; decide

theorem Reg.lt_of_ofByte_cmd (offset : BitVec 6) (h : Reg.ofByte offset = .cmd) : offset.toNat < 8 := by
  revert offset; decide

/-! ### Host accesses and commands as operations -/

theorem exec_wr_of_reg {offset : BitVec 7} {r : Reg} (h : Reg.ofOffset offset = some r) (v : U64) (s : State) :
    exec (.wr offset v) s = s.hostWrite v r := by
  simp only [exec, execWr, h]

theorem exec_rd_of_reg {offset : BitVec 7} {r : Reg} (h : Reg.ofReadOffset offset = some r) (s : State) :
    exec (.rd offset) s = .next { (s.hostRead r).2 with rdata := (s.hostRead r).1 } := by
  simp only [exec, execRd, h]

/-- A write of `CMD` is a command with the word's bits. -/
theorem exec_wr_cmd (v : U64) (s : State) : exec (.wr 0x00 v) s = s.commandWrite (CmdReg.ofWord v) :=
  exec_wr_of_reg (r := .cmd) (by decide) v s

theorem exec_command (hex secretEn ovrEn inNull : Bool) (s : State) :
    exec (Reference.command hex secretEn ovrEn inNull) s =
      s.commandWrite { op := if hex then .hashHex else .hash, secretEn, ovrEn, inNull } := by
  cases hex <;> rfl

theorem exec_decodeCmd (w : U64) (s : State) : exec (decodeCmd w) s = s.commandWrite (CmdReg.ofWord w) := by
  unfold decodeCmd CmdReg.ofWord
  cases w.getLsbD 0 <;> rfl

/-- A host access word that decodes runs as a write or as a read of the register at its offset. -/
theorem exec_of_decodeHostacc {w : BitVec 72} {i : Instr} (h : decodeHostacc w = .ok i) (s : State) :
    (∃ offset r v, i = .wr offset v ∧ Reg.ofOffset offset = some r ∧ exec i s = s.hostWrite v r) ∨
      ∃ r, exec i s = .next { (s.hostRead r).2 with rdata := (s.hostRead r).1 } := by
  rcases decodeHostacc_cases h with ⟨offset, v, rfl, ho⟩ | ⟨offset, rfl, ho⟩
  · rw [← Reg.isSome_ofOffset] at ho
    obtain ⟨r, hr⟩ := Option.isSome_iff_exists.1 ho
    exact .inl ⟨offset, r, v, rfl, hr, exec_wr_of_reg hr v s⟩
  · rw [← Reg.isSome_ofReadOffset] at ho
    obtain ⟨r, hr⟩ := Option.isSome_iff_exists.1 ho
    exact .inr ⟨r, exec_rd_of_reg hr s⟩

/-! ### Where the moves of the outside world stop -/

theorem State.commandWrite_ne_fault (s : State) (c : CmdReg) (f : Fault) : s.commandWrite c ≠ .fault f := by
  unfold State.commandWrite
  split
  · simp
  · split <;> simp

/-- A command is refused exactly when the block waits and `SEC` cannot hold its custom secret. -/
theorem State.commandWrite_refused_iff (s : State) (c : CmdReg) (r : Refusal) :
    s.commandWrite c = .refused r ↔
      s.seq.phase.busy = false ∧ c.secretEn = true ∧ s.cfg.secretMax < s.secretLen.toNat ∧ r = .secretTooLong := by
  unfold State.commandWrite
  split
  · rename_i hb
    simp [hb]
  · rename_i hb
    split
    · rename_i hc
      simp only [Bool.and_eq_true, decide_eq_true_eq] at hc
      simp [hb, hc, eq_comm]
    · rename_i hc
      simp only [Bool.and_eq_true, decide_eq_true_eq, not_and] at hc
      simp only [reduceCtorEq, false_iff]
      exact fun ⟨_, hen, hmax, _⟩ => hc hen hmax

theorem State.hostWrite_ne_fault (s : State) (v : U64) (r : Reg) (f : Fault) : s.hostWrite v r ≠ .fault f := by
  cases r
  case cmd => exact s.commandWrite_ne_fault _ f
  all_goals simp [State.hostWrite]

/-- A host write is refused only as a command. -/
theorem State.hostWrite_refused {s : State} {v : U64} {r : Reg} {x : Refusal} (h : s.hostWrite v r = .refused x) :
    r = .cmd ∧ s.seq.phase.busy = false ∧ v.toNat / 2 % 2 = 1 ∧ s.cfg.secretMax < s.secretLen.toNat ∧
      x = .secretTooLong := by
  cases r
  case cmd =>
    obtain ⟨hb, hen, hmax, hx⟩ := (s.commandWrite_refused_iff _ x).1 h
    exact ⟨rfl, hb, (getLsbD_one_iff v).1 hen, hmax, hx⟩
  all_goals cases h

theorem runCode_accessCode_fault {w : BitVec 72} {s : State} {f : Fault} (h : runCode (accessCode w) s = .fault f) :
    ∃ e, decode (accessCode w) = .error e ∧ f = .undecodable e := by
  cases hd : decode (accessCode w) with
  | error e =>
    simp only [runCode, hd] at h
    exact ⟨e, rfl, (Host.Outcome.fault.inj h).symm⟩
  | ok i =>
    rw [runCode_of_decode hd] at h
    rw [decode_accessCode] at hd
    rcases exec_of_decodeHostacc hd s with ⟨_, r, v, -, -, hx⟩ | ⟨r, hx⟩
    · exact absurd (hx.symm.trans h) (s.hostWrite_ne_fault v r f)
    · cases hx.symm.trans h

/-- A host access is refused only as a write of `CMD` that is refused. -/
theorem runCode_accessCode_refused {w : BitVec 72} {s : State} {x : Refusal}
    (h : runCode (accessCode w) s = .refused x) :
    ∃ v, decode (accessCode w) = .ok (.wr 0x00 v) ∧ s.hostWrite v .cmd = .refused x := by
  cases hd : decode (accessCode w) with
  | error e =>
    simp only [runCode, hd] at h
    cases h
  | ok i =>
    rw [runCode_of_decode hd] at h
    rw [decode_accessCode] at hd
    rcases exec_of_decodeHostacc hd s with ⟨offset, r, v, rfl, hr, hx⟩ | ⟨r, hx⟩
    · have hw := hx.symm.trans h
      obtain ⟨rfl, -⟩ := State.hostWrite_refused hw
      rw [Reg.eq_zero_of_ofOffset_cmd offset hr]
      exact ⟨v, rfl, hw⟩
    · cases hx.symm.trans h

theorem runCode_commandCode (w : U64) (s : State) :
    runCode (commandCode w) s = s.commandWrite (CmdReg.ofWord w) := by
  rw [runCode_of_decode (decode_commandCode w), exec_decodeCmd]

theorem writeNarrow_past_window (offset : BitVec 7) (width : Narrow) (value : U64) (s : State)
    (h : 0x40 ≤ offset.toNat) : writeNarrow offset width value s = .fault .noSuchRegister :=
  if_neg (by omega)

/-- A load of `IN` is refused exactly when it would write bytes the running call may read. -/
theorem loadInput_cases (bytes : List Byte) (s : State) :
    ((s.seq.phase.busy = true ∧ bytes ≠ [] ∧ s.req.len ≠ 0) ∧ loadInput bytes s = .refused .bufferInUse) ∨
      (¬(s.seq.phase.busy = true ∧ bytes ≠ [] ∧ s.req.len ≠ 0) ∧
        loadInput bytes s = .next { s with inMem := s.inMem.fill bytes }) := by
  unfold loadInput
  split
  · rename_i h
    simp only [Bool.and_eq_true, decide_eq_true_eq, and_assoc] at h
    exact .inl ⟨h, rfl⟩
  · rename_i h
    simp only [Bool.and_eq_true, decide_eq_true_eq, and_assoc] at h
    exact .inr ⟨h, rfl⟩

/-- A load of `SEC` is refused exactly when it would write bytes the running call may read, or too many for `SEC`. -/
theorem loadSecret_cases (bytes : List Byte) (s : State) :
    ((s.seq.phase.busy = true ∧ bytes ≠ [] ∧ s.req.secretEn = true ∧ s.req.secretLen ≠ 0) ∧
        loadSecret bytes s = .refused .bufferInUse) ∨
      (¬(s.seq.phase.busy = true ∧ bytes ≠ [] ∧ s.req.secretEn = true ∧ s.req.secretLen ≠ 0) ∧
        ((s.cfg.secretMax < bytes.length ∧ loadSecret bytes s = .refused .secretTooLong) ∨
          (bytes.length ≤ s.cfg.secretMax ∧ loadSecret bytes s = .next { s with secMem := s.secMem.fill bytes }))) := by
  unfold loadSecret
  split
  · rename_i h
    simp only [Bool.and_eq_true, decide_eq_true_eq, and_assoc] at h
    exact .inl ⟨h, rfl⟩
  · rename_i h
    simp only [Bool.and_eq_true, decide_eq_true_eq, and_assoc] at h
    refine .inr ⟨h, ?_⟩
    split
    · exact .inl ⟨‹_›, rfl⟩
    · exact .inr ⟨Nat.le_of_not_lt ‹_›, rfl⟩

theorem unitAnswers_cases (v : U64) (s : State) :
    unitAnswers v s = .next { s with answer := some v } ∨ unitAnswers v s = .next s := by
  unfold unitAnswers
  split
  · exact .inl rfl
  · exact .inr rfl

/-- An answer no request asks for is discarded (`70_reset_and_hazards.md` rule R170). -/
theorem unitAnswers_of_no_request (v : U64) (s : State) (h : s.ovr = none) : unitAnswers v s = .next s := by
  simp [unitAnswers, h]

theorem step_next_of_no_inputs (s : State) (h : s.inputs = []) : ∃ t, step s = .next t := by
  obtain ⟨t, ht⟩ := s.seq.phase.exec_instr_next s
  exact ⟨t, (step_of_no_inputs s h).trans ht⟩

/-- A step that stops was taken by a move of the outside world. -/
theorem exists_input_of_step_stops {s : State} (h : ∀ t, step s ≠ .next t) :
    ∃ i rest, s.inputs = i :: rest ∧ step s = deliverInput i { s with inputs := rest } := by
  cases hi : s.inputs with
  | nil =>
    obtain ⟨t, ht⟩ := step_next_of_no_inputs s hi
    exact absurd ht (h t)
  | cons i rest => exact ⟨i, rest, rfl, step_of_input s i rest hi⟩

/-- A fault comes from a host access word that does not decode or a narrow write past the window. -/
theorem deliverInput_fault {i : Input} {s : State} {f : Fault} (h : deliverInput i s = .fault f) :
    (∃ w e, i = .access w ∧ decode (accessCode w) = .error e ∧ f = .undecodable e) ∨
      ∃ offset width v, i = .writeNarrow offset width v ∧ 0x40 ≤ offset.toNat ∧ f = .noSuchRegister := by
  cases i <;> simp only [deliverInput] at h
  case datapath =>
    obtain ⟨t, ht⟩ := Phase.exec_instr_next s.seq.phase s
    cases ht.symm.trans ((runCode_phaseCode s s).symm.trans h)
  case access w =>
    obtain ⟨e, hd, hf⟩ := runCode_accessCode_fault h
    exact .inl ⟨w, e, rfl, hd, hf⟩
  case command w => exact absurd ((runCode_commandCode w s).symm.trans h) (s.commandWrite_ne_fault _ f)
  case writeNarrow offset width v =>
    by_cases ho : offset.toNat < 0x40
    · rw [writeNarrow_in_window _ _ _ _ ho] at h
      exact absurd h (s.hostWrite_ne_fault _ _ f)
    · rw [writeNarrow_past_window _ _ _ _ (by omega)] at h
      exact .inr ⟨offset, width, v, rfl, by omega, (Host.Outcome.fault.inj h).symm⟩
  case readByte offset => cases h
  case ldin bytes => rcases loadInput_cases bytes s with ⟨-, hl⟩ | ⟨-, hl⟩ <;> cases hl.symm.trans h
  case ldsec bytes => rcases loadSecret_cases bytes s with ⟨-, hl⟩ | ⟨-, ⟨-, hl⟩ | ⟨-, hl⟩⟩ <;> cases hl.symm.trans h
  case poll =>
    obtain ⟨moves, hp, -⟩ := poll_cases s
    cases hp.symm.trans h
  case answer v => rcases unitAnswers_cases v s with hu | hu <;> cases hu.symm.trans h
  case reset => cases h

/-- A refusal comes from a load that `loadInput` or `loadSecret` refuses, or from a refused write of `CMD`. -/
theorem deliverInput_refused {i : Input} {s : State} {x : Refusal} (h : deliverInput i s = .refused x) :
    (∃ bytes, i = .ldin bytes ∧ loadInput bytes s = .refused x) ∨
      (∃ bytes, i = .ldsec bytes ∧ loadSecret bytes s = .refused x) ∨
      ∃ v, s.hostWrite v .cmd = .refused x ∧
        ((∃ w, i = .access w ∧ decode (accessCode w) = .ok (.wr 0x00 v)) ∨ i = .command v ∨
          ∃ offset width value, i = .writeNarrow offset width value ∧ offset.toNat < 8 ∧ v = width.extend value) := by
  cases i <;> simp only [deliverInput] at h
  case datapath =>
    obtain ⟨t, ht⟩ := Phase.exec_instr_next s.seq.phase s
    cases ht.symm.trans ((runCode_phaseCode s s).symm.trans h)
  case access w =>
    obtain ⟨v, hd, hv⟩ := runCode_accessCode_refused h
    exact .inr (.inr ⟨v, hv, .inl ⟨w, rfl, hd⟩⟩)
  case command w => exact .inr (.inr ⟨w, (runCode_commandCode w s).symm.trans h, .inr (.inl rfl)⟩)
  case writeNarrow offset width value =>
    by_cases ho : offset.toNat < 0x40
    · rw [writeNarrow_in_window _ _ _ _ ho] at h
      have hr := (State.hostWrite_refused h).1
      have hlt := Reg.lt_of_ofByte_cmd _ hr
      rw [BitVec.toNat_setWidth] at hlt
      exact .inr (.inr ⟨width.extend value, hr ▸ h, .inr (.inr ⟨offset, width, value, rfl, by omega, rfl⟩)⟩)
    · rw [writeNarrow_past_window _ _ _ _ (by omega)] at h
      cases h
  case readByte offset => cases h
  case ldin bytes => exact .inl ⟨bytes, rfl, h⟩
  case ldsec bytes => exact .inr (.inl ⟨bytes, rfl, h⟩)
  case poll =>
    obtain ⟨moves, hp, -⟩ := poll_cases s
    cases hp.symm.trans h
  case answer v => rcases unitAnswers_cases v s with hu | hu <;> cases hu.symm.trans h
  case reset => cases h

/-! ### What a host move can change while a call runs -/

/-- `t` is `s` but for the request registers, the buffers `IN` and `SEC`, the read port, the draw counter and the coming
moves. -/
def State.HostSideOnly (s t : State) : Prop :=
  t = { s with
    seed := t.seed, len := t.len, secretLen := t.secretLen, inMem := t.inMem, secMem := t.secMem
    rdata := t.rdata, draws := t.draws, inputs := t.inputs }

theorem State.HostSideOnly.sameCall {s t : State} (h : s.HostSideOnly t) : Reference.sameCall s t := by
  unfold State.HostSideOnly at h
  rw [h]
  exact ⟨rfl, rfl, rfl, rfl, rfl, rfl, rfl, rfl, rfl⟩

theorem State.HostSideOnly.answer {s t : State} (h : s.HostSideOnly t) : t.answer = s.answer := by
  unfold State.HostSideOnly at h
  rw [h]

/-- `t` has what the running call works with, its outcome and the buffer bytes it may read from `s`. -/
structure State.Undisturbed (s t : State) : Prop where
  hostSide : s.HostSideOnly t
  input : ∀ k, k < s.req.len.toNat → t.inMem.read k = s.inMem.read k
  secret : s.req.secretEn = true → ∀ k, k < s.req.secretLen.toNat → t.secMem.read k = s.secMem.read k

/-- A host move that leaves the buffers alone does not disturb the call. -/
theorem State.Undisturbed.of_buffers_eq {s t : State} (h : s.HostSideOnly t) (hin : t.inMem = s.inMem)
    (hsec : t.secMem = s.secMem) : s.Undisturbed t :=
  ⟨h, fun _ _ => by rw [hin], fun _ _ _ => by rw [hsec]⟩

theorem State.hostWrite_undisturbed {s t : State} {v : U64} {r : Reg} (hb : s.seq.phase.busy = true)
    (h : s.hostWrite v r = .next t) : s.Undisturbed t := by
  rcases s.hostWrite_cases t v r h with rfl | rfl | rfl | rfl | ⟨-, hnb, -⟩
  case inr.inr.inr.inr => simp [hb] at hnb
  all_goals exact .of_buffers_eq rfl rfl rfl

theorem State.commandWrite_of_busy {s : State} (hb : s.seq.phase.busy = true) (c : CmdReg) :
    s.commandWrite c = .next s := if_pos hb

theorem Memory.fill_nil_read (m : Memory) (k : Nat) : (m.fill []).read k = m.read k := by
  simp [Memory.read_fill]

theorem loadInput_undisturbed {bytes : List Byte} {s t : State} (hb : s.seq.phase.busy = true)
    (h : loadInput bytes s = .next t) : s.Undisturbed t := by
  rcases loadInput_cases bytes s with ⟨-, hl⟩ | ⟨hfree, hl⟩ <;> cases hl.symm.trans h
  refine ⟨rfl, fun k hk => ?_, fun _ _ _ => rfl⟩
  have hlen : s.req.len ≠ 0 := fun h0 => by simp [h0] at hk
  obtain rfl : bytes = [] := by_contra fun hne => hfree ⟨hb, hne, hlen⟩
  exact s.inMem.fill_nil_read k

theorem loadSecret_undisturbed {bytes : List Byte} {s t : State} (hb : s.seq.phase.busy = true)
    (h : loadSecret bytes s = .next t) : s.Undisturbed t := by
  rcases loadSecret_cases bytes s with ⟨-, hl⟩ | ⟨hfree, ⟨-, hl⟩ | ⟨-, hl⟩⟩ <;> cases hl.symm.trans h
  refine ⟨rfl, fun _ _ => rfl, fun hen k hk => ?_⟩
  have hlen : s.req.secretLen ≠ 0 := fun h0 => by simp [h0] at hk
  obtain rfl : bytes = [] := by_contra fun hne => hfree ⟨hb, hne, hen, hlen⟩
  exact s.secMem.fill_nil_read k

theorem State.hostRead_undisturbed (s : State) (r : Reg) (v : U64) :
    s.Undisturbed { (s.hostRead r).2 with rdata := v } := by
  rcases s.hostRead_state r with h | h <;> rw [h] <;> exact .of_buffers_eq rfl rfl rfl

/-- While a call runs, no host move disturbs it. -/
theorem deliverInput_undisturbed {i : Input} {s t : State} (hb : s.seq.phase.busy = true)
    (hi : i.isOthers = false) (h : deliverInput i s = .next t) : s.Undisturbed t := by
  cases i <;> simp only [deliverInput] at h
  case access w =>
    cases hd : decode (accessCode w) with
    | error e => simp [runCode, hd] at h
    | ok i =>
      rw [runCode_of_decode hd] at h
      rw [decode_accessCode] at hd
      rcases exec_of_decodeHostacc hd s with ⟨_, r, v, -, -, hx⟩ | ⟨r, hx⟩
      · exact State.hostWrite_undisturbed hb (hx.symm.trans h)
      · cases hx.symm.trans h
        exact s.hostRead_undisturbed r _
  case command w =>
    rw [runCode_commandCode, State.commandWrite_of_busy hb] at h
    cases h
    exact .of_buffers_eq rfl rfl rfl
  case writeNarrow offset width value =>
    by_cases ho : offset.toNat < 0x40
    · rw [writeNarrow_in_window _ _ _ _ ho] at h
      exact State.hostWrite_undisturbed hb h
    · rw [writeNarrow_past_window _ _ _ _ (by omega)] at h
      cases h
  case readByte offset =>
    cases h
    exact s.hostRead_undisturbed _ _
  case ldin bytes => exact loadInput_undisturbed hb h
  case ldsec bytes => exact loadSecret_undisturbed hb h
  case poll =>
    obtain ⟨moves, hp, -⟩ := poll_cases s
    cases hp.symm.trans h
    exact .of_buffers_eq rfl rfl rfl
  case datapath | answer | reset => cases hi

/-! ### Runs that stand still -/

theorem coreRun_succ_of_step (M : Host.Core) {a b : M.State} (h : M.step a = .next b) (n : Nat) :
    M.run (n + 1) a = M.run n b := by
  rw [Host.Core.run, h]

theorem run_succ_of_step {s t : State} (h : step s = .next t) (n : Nat) : run (n + 1) s = run n t :=
  coreRun_succ_of_step Sys2Proof.core h n

/-- A state that a step leaves as it is, a run leaves as it is. -/
theorem run_of_step_self {s : State} (h : step s = .next s) (n : Nat) : run n s = .next s := by
  induction n with
  | zero => rfl
  | succ n ih =>
    rw [run_succ_of_step h]
    exact ih

end Sys2Proof.Machine
end

section
/-! PROOFS. The statements about the state, the host's register window, the loads, reset and the stops. -/

namespace Sys2Proof.Proofs

open Sys2Proof.Machine

/-- Settles O8: with no move to come the step is a phase's operation, which never stops; otherwise the stops of the one
coming move are those of `deliverInput_fault` and `deliverInput_refused`. -/
theorem stepStopsOnlyAtTheseMoves : Obligations.StepStopsOnlyAtTheseMoves := by
  refine ⟨step_next_of_no_inputs, fun s f h => ?_, fun s x h => ?_⟩
  · obtain ⟨i, rest, hi, hstep⟩ := exists_input_of_step_stops (s := s) (by simp [h])
    exact ⟨i, rest, hi, deliverInput_fault (hstep.symm.trans h)⟩
  · obtain ⟨i, rest, hi, hstep⟩ := exists_input_of_step_stops (s := s) (by simp [h])
    refine ⟨i, rest, hi, ?_⟩
    rcases deliverInput_refused (hstep.symm.trans h) with ⟨bytes, rfl, hl⟩ | ⟨bytes, rfl, hl⟩ | ⟨v, hv, hmove⟩
    · rcases loadInput_cases bytes { s with inputs := rest } with ⟨⟨hb, hne, hlen⟩, hx⟩ | ⟨-, hx⟩ <;>
        cases hx.symm.trans hl
      obtain ⟨b, bs, rfl⟩ := List.exists_cons_of_ne_nil hne
      exact .inl ⟨rfl, (Phase.stateCode_eq_one_iff _).2 hb, b, bs, .inl ⟨rfl, hlen⟩⟩
    · rcases loadSecret_cases bytes { s with inputs := rest } with
          ⟨⟨hb, hne, hen, hlen⟩, hx⟩ | ⟨-, ⟨hmax, hx⟩ | ⟨-, hx⟩⟩ <;> cases hx.symm.trans hl
      · obtain ⟨b, bs, rfl⟩ := List.exists_cons_of_ne_nil hne
        exact .inl ⟨rfl, (Phase.stateCode_eq_one_iff _).2 hb, b, bs, .inr ⟨rfl, hen, hlen⟩⟩
      · exact .inr ⟨rfl, .inl ⟨bytes, rfl, hmax⟩⟩
    · obtain ⟨-, hb, hbit, hmax, rfl⟩ := State.hostWrite_refused hv
      refine .inr ⟨rfl, .inr ⟨hmax, (Phase.stateCode_ne_one_iff _).2 hb, ?_⟩⟩
      rcases hmove with ⟨w, rfl, hd⟩ | rfl | ⟨offset, width, value, rfl, ho, rfl⟩
      · exact .inl ⟨w, v, rfl, hd, hbit⟩
      · exact .inr (.inl ⟨v, rfl, hbit⟩)
      · rw [← getLsbD_one_iff, Narrow.extend_getLsbD_one, getLsbD_one_iff] at hbit
        exact .inr (.inr ⟨offset, width, value, rfl, ho, hbit⟩)

/-- Settles O10: the command and the write of `CMD` are one `commandWrite`, which starts the call. -/
theorem commandStartsCall : Obligations.CommandStartsCall := by
  intro s hex secretEn ovrEn inNull ⟨hwait, hmax⟩
  have start := s.commandWrite_start { op := if hex then .hashHex else .hash, secretEn, ovrEn, inNull }
    ((Phase.stateCode_ne_one_iff _).1 hwait) fun ⟨hen, hlt⟩ => absurd (hmax hen) (by omega)
  refine ⟨_, (exec_command hex secretEn ovrEn inNull s).trans start, fun v hv => ?_, rfl, statusWord_startCall _⟩
  rw [exec_wr_cmd, CmdReg.ofWord_of_low_bits hv, start]

/-- Settles O13: each readable offset reaches its register, whose read leaves the state; the characters of `HEX` are the
bytes of the little-endian number the read returns. -/
theorem hostReadReturnsRegister : Obligations.HostReadReturnsRegister := by
  intro s
  refine ⟨rfl, rfl, rfl, rfl, rfl, fun hdone => ?_, fun hdone hvalid k hk => ?_⟩
  · rw [exec_rd_of_reg (r := .result) (by decide)]
    simp [State.hostRead, hdone]
  · refine ⟨le64 (hexBytes s.hex) k, ?_, fun j hj => ?_⟩
    · rw [exec_rd_of_reg (Reg.ofReadOffset_hex k hk)]
      simp [State.hostRead, hdone, hvalid]
    · rw [le64_div_mod _ _ _ hj, hexBytes_of_lt _ _ (by omega)]

/-- A narrow write in the window is the 64-bit write of the extended value at the first offset of the byte's register. -/
theorem step_writeNarrow {s : State} {rest : List Input} {offset : BitVec 7} {width : Narrow} {v : U64}
    (ho : offset.toNat < 0x40) (hi : s.inputs = .writeNarrow offset width v :: rest) :
    step s = exec (.wr (BitVec.ofNat 7 (offset.toNat - offset.toNat % 8)) (width.extend v))
      { s with inputs := rest } := by
  have hbyte := Reg.ofOffset_of_byte (offset.setWidth 6)
  rw [BitVec.toNat_setWidth, Nat.mod_eq_of_lt (by omega),
    show 8 * (offset.toNat / 8) = offset.toNat - offset.toNat % 8 by omega] at hbyte
  rw [step_of_input _ _ _ hi, exec_wr_of_reg hbyte]
  exact writeNarrow_in_window _ _ _ _ ho

/-- Settles O17: the register of a byte is the one at its first offset, so a byte read takes a byte of that register's
read, and a narrow write is `step_writeNarrow`. -/
theorem narrowAccessesAreExtended : Obligations.NarrowAccessesAreExtended := by
  refine ⟨fun s rest offset hi => ?_, fun s rest offset v =>
    ⟨fun ho => ⟨step_writeNarrow ho, step_writeNarrow ho, step_writeNarrow ho⟩, fun ho width hi => ?_⟩⟩
  · have hreg := Reg.ofReadOffset_of_byte offset
    rw [show 8 * (offset.toNat / 8) = offset.toNat - offset.toNat % 8 by omega] at hreg
    refine ⟨_, exec_rd_of_reg hreg _, ?_⟩
    simp only [step_of_input _ _ _ hi, deliverInput, readByte, byteOf_setWidth]
  · rw [step_of_input _ _ _ hi]
    exact writeNarrow_past_window _ _ _ _ ho

/-- Settles O18, by the cases of the two loads and the laws of `Memory.fill`. -/
theorem loadsFillBuffers : Obligations.LoadsFillBuffers := by
  intro s rest bytes
  simp only [Phase.stateCode_ne_one_iff, Phase.stateCode_eq_one_iff]
  refine ⟨fun hi hb => ?_, fun hi hb hmax => ?_, fun hi hb hne hlen => ?_, fun hi hb hne hen hlen => ?_⟩ <;>
    rw [step_of_input _ _ _ hi]
  · rcases loadInput_cases bytes { s with inputs := rest } with ⟨⟨hb', -⟩, -⟩ | ⟨-, h⟩
    · exact absurd hb' (by simp [hb])
    · exact ⟨_, h, Memory.wf_fill _ _, Memory.read_fill _ _⟩
  · rcases loadSecret_cases bytes { s with inputs := rest } with ⟨⟨hb', -⟩, -⟩ | ⟨-, ⟨hmax', -⟩ | ⟨-, h⟩⟩
    · exact absurd hb' (by simp [hb])
    · exact absurd hmax' (Nat.not_lt.2 hmax)
    · exact ⟨_, h, Memory.wf_fill _ _, Memory.read_fill _ _⟩
  · rcases loadInput_cases bytes { s with inputs := rest } with ⟨-, h⟩ | ⟨hfree, -⟩
    · exact h
    · exact absurd ⟨hb, hne, hlen⟩ hfree
  · rcases loadSecret_cases bytes { s with inputs := rest } with ⟨-, h⟩ | ⟨hfree, -⟩
    · exact h
    · exact absurd ⟨hb, hne, hen, hlen⟩ hfree

/-- Settles O25, from `deliverInput_undisturbed`. -/
theorem hostMovesDoNotDisturbRunningCall : Obligations.HostMovesDoNotDisturbRunningCall := by
  intro s t i rest hb hi hdatapath hreset hanswer h
  rw [step_of_input s i rest hi] at h
  have hhost : i.isOthers = false := by
    cases i
    case datapath => exact absurd rfl hdatapath
    case answer v => exact absurd rfl (hanswer v)
    case reset => exact absurd rfl hreset
    all_goals rfl
  obtain ⟨hside, hin, hsec⟩ := deliverInput_undisturbed (s := { s with inputs := rest })
    ((Phase.stateCode_eq_one_iff _).1 hb) hhost h
  exact ⟨hside.sameCall, hside.answer, hin, hsec⟩

/-- Settles O54: both kinds of state are `State.reset` but for the draw counter, the coming moves and the parameters. -/
theorem resetState : Obligations.ResetState := by
  refine ⟨fun s rest hi => ⟨_, step_of_input s _ rest hi⟩, fun t ht => ?_⟩
  obtain ⟨draws, inputs, cfg, rfl⟩ : ∃ draws inputs cfg, t = { State.reset with draws, inputs, cfg } := by
    rcases ht with rfl | ⟨s, rest, hi, h⟩
    · exact ⟨_, _, _, rfl⟩
    · cases (step_of_input s _ rest hi).symm.trans h
      exact ⟨_, _, _, rfl⟩
  have hstatus : statusWord State.reset = 0x70 := by decide
  refine ⟨rfl, (statusWord_congr rfl rfl).trans hstatus, rfl, rfl, rfl, rfl, fun v rest hi => ?_,
    fun hi => run_of_step_self ?_⟩
  · rw [step_of_input _ _ _ hi]
    exact unitAnswers_of_no_request v _ rfl
  · exact step_of_no_inputs _ hi

/-- Settles O6: a phase code decodes to the phase's operation, and a step runs the code of its move. -/
theorem stepRunsDecodedOperation : Obligations.StepRunsDecodedOperation := by
  refine ⟨fun s => ⟨_, decode_phaseCode s, encode_phase_instr _⟩, fun s i hi hd => ?_, fun s rest i hi hd => ?_,
    fun s w rest i hi hd => ?_, fun s w rest i hi hd => ?_⟩
  · rw [step_of_no_inputs s hi, ← runCode_phaseCode, runCode_of_decode hd]
  all_goals
    rw [step_of_input _ _ _ hi]
    exact runCode_of_decode hd _

/-- Settles O9: each offset reaches its register, and the read-only ones ignore the write. -/
theorem hostWriteStoresRequestRegisters : Obligations.HostWriteStoresRequestRegisters := fun s v =>
  ⟨rfl, rfl, rfl, rfl, rfl, fun offset h₁ h₂ => exec_wr_of_reg (Reg.ofOffset_hex offset h₁ h₂) v s⟩

/-- Settles O12: one direction of `State.commandWrite_refused_iff`. -/
theorem secretBeyondCapacityRefused : Obligations.SecretBeyondCapacityRefused := by
  intro s hex ovrEn inNull hwait hmax
  rw [exec_command, State.commandWrite_refused_iff]
  exact ⟨(Phase.stateCode_ne_one_iff _).1 hwait, rfl, hmax, rfl⟩

/-- Settles O14: where the spec leaves the value open, the read is a draw. -/
theorem earlyReadIsFreeAndHarmless : Obligations.EarlyReadIsFreeAndHarmless := by
  intro s
  refine ⟨fun hearly => ?_, fun hearly k hk => ?_⟩
  · rw [exec_rd_of_reg (r := .result) (by decide), State.hostRead, if_neg hearly]
    rfl
  · rw [exec_rd_of_reg (Reg.ofReadOffset_hex k hk), State.hostRead, if_neg hearly]
    rfl

/-- Settles O55, clause by clause. -/
theorem invariantAtReset : Obligations.InvariantAtReset where
  memories := ⟨Memory.wf_nil, Memory.wf_nil, Memory.wf_nil⟩
  phase := trivial
  err := by decide
  bucket := rfl
  ovrUsed := by decide
  hexValid := by decide
  hex := fun h => nomatch h
  ovr := fun _ h => nomatch h
  answer := fun h => absurd rfl h

end Sys2Proof.Proofs
end

section
/-! PROOFS. Which codes are no operation, what a step of the datapath can write, and which bytes it reads. -/

namespace Sys2Proof.Machine

/-! ### Host access words -/

theorem mem_writeOffsets_iff (offset : BitVec 7) :
    offset ∈ writeOffsets ↔ Reference.isRegisterOffset offset.toNat := by
  unfold Reference.isRegisterOffset
  revert offset
  decide

theorem mem_readOffsets_iff (offset : BitVec 7) :
    offset ∈ readOffsets ↔ Reference.isReadOffset offset.toNat := by
  unfold Reference.isReadOffset Reference.isRegisterOffset
  revert offset
  decide

theorem getLsbD_eq_true_iff {n : Nat} (w : BitVec n) (k : Nat) : w.getLsbD k = true ↔ w.toNat / 2 ^ k % 2 = 1 := by
  rw [← BitVec.testBit_toNat, Nat.testBit_eq_decide_div_mod_eq, decide_eq_true_eq]

theorem toNat_extractLsb' {n : Nat} (w : BitVec n) (lo len : Nat) :
    (w.extractLsb' lo len).toNat = w.toNat / 2 ^ lo % 2 ^ len := by
  rw [BitVec.extractLsb'_toNat, Nat.shiftRight_eq_div_pow]

/-- The bits of a host access word that is no operation, and why it is none (`30_encoding.md` rule R60). -/
theorem decodeHostacc_error_iff (w : BitVec 72) (e : DecodeError) :
    decodeHostacc w = .error e ↔
      (w.toNat / 2 ^ 71 % 2 = 1 ∧ ¬Reference.isRegisterOffset (w.toNat / 2 ^ 64 % 2 ^ 7) ∧ .noSuchOffset = e) ∨
      (w.toNat / 2 ^ 71 % 2 = 0 ∧
        ((¬Reference.isReadOffset (w.toNat / 2 ^ 64 % 2 ^ 7) ∧ .noSuchOffset = e) ∨
          (Reference.isReadOffset (w.toNat / 2 ^ 64 % 2 ^ 7) ∧ w.toNat % 2 ^ 64 ≠ 0 ∧ .readWithValue = e))) := by
  have hvalue : w.extractLsb' 0 64 = 0 ↔ w.toNat % 2 ^ 64 = 0 := by
    rw [← BitVec.toNat_inj, toNat_extractLsb', Nat.pow_zero, Nat.div_one]
    rfl
  rw [← toNat_extractLsb' w 64 7, ← mem_writeOffsets_iff, ← mem_readOffsets_iff]
  unfold decodeHostacc
  simp only [getLsbD_eq_true_iff, List.contains_iff_mem, hvalue]
  rcases Nat.mod_two_eq_zero_or_one (w.toNat / 2 ^ 71) with hdir | hdir
  · by_cases hoff : w.extractLsb' 64 7 ∈ readOffsets
    · by_cases hval : w.toNat % 2 ^ 64 = 0 <;> simp only [hdir, hoff, hval, ne_eq] <;> simp
    · simp only [hdir, hoff]
      simp
  · by_cases hoff : w.extractLsb' 64 7 ∈ writeOffsets <;> simp only [hdir, hoff] <;> simp

theorem decodeDsel_error_iff (w : BitVec 4) (e : DecodeError) :
    decodeDsel w = .error e ↔ w.toNat % 8 = 7 ∧ .notAnOperation = e := by
  revert w
  cases e <;> decide

theorem toNat_encodeWr (offset : BitVec 7) (v : U64) :
    (encodeWr offset v).toNat = 2 ^ 71 + 2 ^ 64 * offset.toNat + v.toNat := by
  have hv := v.isLt
  have ho := offset.isLt
  rw [encodeWr, BitVec.toNat_append, BitVec.toNat_append, ← Nat.shiftLeft_add_eq_or_of_lt ho,
    ← Nat.shiftLeft_add_eq_or_of_lt hv, Nat.shiftLeft_eq, Nat.shiftLeft_eq]
  change (1 * 2 ^ 7 + _) * 2 ^ 64 + _ = _
  omega

theorem toNat_encodeRd (offset : BitVec 7) : (encodeRd offset).toNat = 2 ^ 64 * offset.toNat := by
  have ho := offset.isLt
  rw [encodeRd, BitVec.toNat_append, BitVec.toNat_append, ← Nat.shiftLeft_add_eq_or_of_lt ho,
    ← Nat.shiftLeft_add_eq_or_of_lt (by decide), Nat.shiftLeft_eq, Nat.shiftLeft_eq]
  change (0 * 2 ^ 7 + _) * 2 ^ 64 + 0 = _
  omega

theorem runCode_of_decode_error {c : Code} {e : DecodeError} (h : decode c = .error e) (s : State) :
    runCode c s = .fault (.undecodable e) := by
  simp only [runCode, h]

theorem exec_wr_of_no_reg {offset : BitVec 7} (h : ¬Reference.isRegisterOffset offset.toNat) (v : U64) (s : State) :
    exec (.wr offset v) s = .fault .noSuchRegister := by
  rw [← mem_writeOffsets_iff, ← List.contains_iff_mem, ← Reg.isSome_ofOffset, Bool.not_eq_true,
    Option.isSome_eq_false_iff, Option.isNone_iff_eq_none] at h
  simp only [exec, execWr, h]

theorem exec_rd_of_no_reg {offset : BitVec 7} (h : ¬Reference.isReadOffset offset.toNat) (s : State) :
    exec (.rd offset) s = .fault .noSuchRegister := by
  rw [← mem_readOffsets_iff, ← List.contains_iff_mem, ← Reg.isSome_ofReadOffset, Bool.not_eq_true,
    Option.isSome_eq_false_iff, Option.isNone_iff_eq_none] at h
  simp only [exec, execRd, h]

theorem step_access_of_decode_error {w : BitVec 72} {e : DecodeError} (h : decodeHostacc w = .error e) (s : State) :
    step { s with inputs := .access w :: s.inputs } = .fault (.undecodable e) := by
  rw [step_of_input _ _ s.inputs rfl]
  exact runCode_of_decode_error ((decode_accessCode w).trans h) s

/-! ### What the datapath writes (`40_dispatch.md` rule R84) -/

/-- `t` is `s` but for what a running call writes: the flags, the results, the lanes, `PRE`, the sequencer, the override
port. -/
def State.CallSideOnly (s t : State) : Prop :=
  t = { s with
    status := t.status, result := t.result, hex := t.hex, acc := t.acc, pre := t.pre, seq := t.seq, ovr := t.ovr
    answer := t.answer }

theorem State.takeAnswer_callSideOnly (s : State) : s.CallSideOnly s.takeAnswer := by
  rcases s.takeAnswer_cases with ⟨-, v, -, -, h⟩ | ⟨-, h⟩ <;> rw [h] <;> rfl

theorem State.overrideCall_callSideOnly (s : State) : s.CallSideOnly s.overrideCall := by
  rcases s.overrideCall_cases with ⟨-, h⟩ | ⟨-, v, -, -, h⟩ | ⟨-, -, h⟩ <;> rw [h] <;> rfl

theorem execCheck_callSideOnly {s t : State} (h : execCheck s = .next t) : s.CallSideOnly t := by
  unfold execCheck at h
  split at h
  · cases h; rfl
  · split at h <;> cases h <;> rfl

theorem execShort_callSideOnly {s t : State} (h : execShort s = .next t) : s.CallSideOnly t := by
  unfold execShort at h
  split at h
  case h_7 =>
    split at h <;> cases h
    · exact s.overrideCall_callSideOnly
    · rfl
  all_goals cases h; rfl

theorem execStripe_callSideOnly {s t : State} (h : execStripe s = .next t) : s.CallSideOnly t := by
  unfold execStripe at h
  dsimp only at h
  split at h <;> cases h <;> rfl

theorem execTail_callSideOnly {s t : State} (h : execTail s = .next t) : s.CallSideOnly t := by
  unfold execTail at h
  dsimp only at h
  split at h <;> cases h <;> rfl

theorem execFinal_callSideOnly {s t : State} (h : execFinal s = .next t) : s.CallSideOnly t := by
  unfold execFinal at h
  split at h <;> cases h
  case h_4 => exact s.takeAnswer_callSideOnly
  all_goals rfl

/-- Every phase but SEEDMIX writes only what a running call owns, and not `ESEC`. -/
theorem Phase.exec_instr_callSideOnly {p : Phase} {s t : State} (hp : p ≠ .seedmix) (h : exec p.instr s = .next t) :
    s.CallSideOnly t := by
  cases p
  case seedmix => exact absurd rfl hp
  case check => exact execCheck_callSideOnly h
  case short => exact execShort_callSideOnly h
  case ovrWait => cases h; exact s.overrideCall_callSideOnly
  case stripe => exact execStripe_callSideOnly h
  case tail => exact execTail_callSideOnly h
  case final => exact execFinal_callSideOnly h
  all_goals cases h; rfl

theorem execSeedmix_callSideOnly {s t : State} (h : execSeedmix s = .next t) :
    State.CallSideOnly { s with esecMem := t.esecMem } t := by
  cases h
  rfl

/-- Everything a step of the datapath can write. -/
theorem step_callSideOnly {s t : State} (hi : s.inputs = []) (h : step s = .next t) :
    State.CallSideOnly { s with esecMem := t.esecMem } t ∧ (s.seq.phase ≠ .seedmix → t.esecMem = s.esecMem) := by
  rw [step_of_no_inputs s hi] at h
  by_cases hp : s.seq.phase = .seedmix
  · rw [hp] at h
    exact ⟨execSeedmix_callSideOnly h, fun hne => absurd hp hne⟩
  · have hside := Phase.exec_instr_callSideOnly hp h
    have hesec : t.esecMem = s.esecMem := by rw [hside]
    exact ⟨hesec ▸ hside, fun _ => hesec⟩

/-! ### Bytes that agree below a length -/

/-- Two byte sequences have the same first `n` bytes. -/
def AgreeBelow (n : Nat) (b b' : Bytes) : Prop := ∀ k, k < n → b k = b' k

theorem AgreeBelow.refl (n : Nat) (b : Bytes) : AgreeBelow n b b := fun _ _ => rfl

theorem AgreeBelow.mono {m n : Nat} {b b' : Bytes} (h : AgreeBelow n b b') (hmn : m ≤ n) : AgreeBelow m b b' :=
  fun k hk => h k (Nat.lt_of_lt_of_le hk hmn)

theorem AgreeBelow.le32_eq {n : Nat} {b b' : Bytes} (h : AgreeBelow n b b') {off : Nat} (hoff : off + 4 ≤ n) :
    le32 b off = le32 b' off := le32_congr b b' off fun k _ hk => h k (by omega)

theorem AgreeBelow.le64_eq {n : Nat} {b b' : Bytes} (h : AgreeBelow n b b') {off : Nat} (hoff : off + 8 ≤ n) :
    le64 b off = le64 b' off := le64_congr b b' off fun k _ hk => h k (by omega)

/-! ### The short buckets -/

section Short

variable {inp inp' sec sec' : Bytes} {len seed : U64}

theorem pre0_congr (hs : AgreeBelow 136 sec sec') : pre0 sec seed = pre0 sec' seed := by
  rw [pre0, pre0, hs.le64_eq (off := 56) (by decide), hs.le64_eq (off := 64) (by decide)]

theorem pre1_3_congr (hi : AgreeBelow len.toNat inp inp') (hs : AgreeBelow 136 sec sec') (hlen : 1 ≤ len.toNat) :
    pre1_3 inp sec len seed = pre1_3 inp' sec' len seed := by
  simp only [pre1_3, combined1_3, hi 0 (by omega), hi (len.toNat / 2) (by omega), hi (len.toNat - 1) (by omega),
    hs.le32_eq (off := 0) (by decide), hs.le32_eq (off := 4) (by decide)]

theorem pre4_8_congr (hi : AgreeBelow len.toNat inp inp') (hs : AgreeBelow 136 sec sec') (hlen : 4 ≤ len.toNat) :
    pre4_8 inp sec len seed = pre4_8 inp' sec' len seed := by
  simp only [pre4_8, hi.le32_eq (off := 0) (by omega), hi.le32_eq (off := len.toNat - 4) (by omega),
    hs.le64_eq (off := 8) (by decide), hs.le64_eq (off := 16) (by decide)]

theorem pre9_16_congr (hi : AgreeBelow len.toNat inp inp') (hs : AgreeBelow 136 sec sec') (hlen : 9 ≤ len.toNat) :
    pre9_16 inp sec len seed = pre9_16 inp' sec' len seed := by
  simp only [pre9_16, hi.le64_eq (off := 0) (by omega), hi.le64_eq (off := len.toNat - 8) (by omega),
    hs.le64_eq (off := 24) (by decide), hs.le64_eq (off := 32) (by decide), hs.le64_eq (off := 40) (by decide),
    hs.le64_eq (off := 48) (by decide)]

theorem mix16_congr {n m io so : Nat} (hi : AgreeBelow n inp inp') (hs : AgreeBelow m sec sec') (hio : io + 16 ≤ n)
    (hso : so + 16 ≤ m) : mix16 inp sec seed io so = mix16 inp' sec' seed io so := by
  rw [mix16, mix16, hi.le64_eq (off := io) (by omega), hi.le64_eq (off := io + 8) (by omega),
    hs.le64_eq (off := so) (by omega), hs.le64_eq (off := so + 8) (by omega)]

theorem pre17_128_congr (hi : AgreeBelow len.toNat inp inp') (hs : AgreeBelow 136 sec sec') (hlen : 17 ≤ len.toNat)
    (hmax : len.toNat ≤ 128) : pre17_128 inp sec len seed = pre17_128 inp' sec' len seed := by
  refine List.foldl_ext _ _ _ fun acc i hmem => ?_
  have hround := List.mem_range.1 hmem
  rw [mix16_congr hi hs (by omega) (by omega), mix16_congr hi hs (by omega) (by omega)]

theorem front129_240_congr (hi : AgreeBelow len.toNat inp inp') (hs : AgreeBelow 136 sec sec')
    (hlen : 129 ≤ len.toNat) : front129_240 inp sec len seed = front129_240 inp' sec' len seed := by
  refine List.foldl_ext _ _ _ fun acc i hmem => ?_
  have hround := List.mem_range.1 hmem
  rw [mix16_congr hi hs (by omega) (by omega)]

theorem pre129_240_congr (hi : AgreeBelow len.toNat inp inp') (hs : AgreeBelow 136 sec sec')
    (hlen : 129 ≤ len.toNat) (hmax : len.toNat ≤ 240) :
    pre129_240 inp sec len seed = pre129_240 inp' sec' len seed := by
  unfold pre129_240
  rw [front129_240_congr hi hs hlen, mix16_congr hi hs (io := len.toNat - 16) (by omega) (by omega)]
  refine congrArg (add64 · _) (List.foldl_ext _ _ _ fun acc j hmem => ?_)
  have hround := List.mem_range.1 hmem
  rw [mix16_congr hi hs (by omega) (by omega)]

end Short

/-- The lengths of a bucket (`40_dispatch.md` rule R78). -/
def Bucket.Covers : Bucket → Nat → Prop
  | .len0, n => n = 0
  | .len1_3, n => 1 ≤ n ∧ n ≤ 3
  | .len4_8, n => 4 ≤ n ∧ n ≤ 8
  | .len9_16, n => 9 ≤ n ∧ n ≤ 16
  | .len17_128, n => 17 ≤ n ∧ n ≤ 128
  | .len129_240, n => 129 ≤ n ∧ n ≤ 240
  | .long, n => 241 ≤ n

theorem bucketOf_covers (n : Nat) : (bucketOf n).Covers n := by
  unfold bucketOf
  repeat' split
  all_goals simp only [Bucket.Covers]; omega

theorem Request.bucket_covers {r : Request} {b : Bucket} (h : r.bucket = b) : b.Covers r.len.toNat :=
  h ▸ bucketOf_covers r.len.toNat

/-! ### The long path and the seed mixer -/

theorem scrambleLanes_congr {sec sec' : Bytes} {n : Nat} (hs : AgreeBelow n sec sec') (hn : 64 ≤ n)
    (acc : Vector U64 8) : scrambleLanes sec n acc = scrambleLanes sec' n acc := by
  refine congrArg Vector.ofFn (funext fun i => ?_)
  rw [hs.le64_eq (by omega)]

theorem mergeLanes_congr {sec sec' : Bytes} {n : Nat} (hs : AgreeBelow n sec sec') (hn : 75 ≤ n) (len : U64)
    (acc : Vector U64 8) : mergeLanes sec len acc = mergeLanes sec' len acc := by
  refine List.foldl_ext _ _ _ fun r j _ => ?_
  rw [mergeTerm, mergeTerm, hs.le64_eq (by omega), hs.le64_eq (by omega)]

theorem seedMixBytes_congr {src src' : Bytes} {n : Nat} (h : AgreeBelow n src src') (seed : U64) :
    seedMixBytes src n seed = seedMixBytes src' n seed := by
  have hlane (j : Nat) (hj : j ∈ List.range (n / 8)) :
      leBytes (seedLane src seed j) = leBytes (seedLane src' seed j) := by
    rw [List.mem_range] at hj
    rw [seedLane, seedLane, h.le64_eq (by omega)]
  have hbyte (k : Nat) (hk : k ∈ List.range (n % 8)) : src (8 * (n / 8) + k) = src' (8 * (n / 8) + k) := by
    rw [List.mem_range] at hk
    exact h _ (by omega)
  rw [seedMixBytes, seedMixBytes, List.flatMap_congr hlane, List.map_congr_left hbyte]

/-! ### The loops of a long call stay inside the input and the secret (`42_long.md` rule R105) -/

section Geometry

variable {len secretLen blk str : Nat}

theorem geometry_blkLen (len secretLen : Nat) :
    (geometry len secretLen).blkLen = 64 * (geometry len secretLen).nspb := rfl

theorem geometry_nblk_mul_blkLen_le (len secretLen : Nat) :
    (geometry len secretLen).nblk * (geometry len secretLen).blkLen ≤ len - 1 := Nat.div_mul_le_self _ _

theorem stripe_within_secret (hstr : str < (geometry len secretLen).nspb) : secretConsume * str + 64 ≤ secretLen := by
  have h : str < (secretLen - 64) / 8 := hstr
  simp only [secretConsume]
  omega

theorem stripe_within_input (hblk : blk < (geometry len secretLen).nblk) (hstr : str < (geometry len secretLen).nspb) :
    blk * (geometry len secretLen).blkLen + stripeLen * str + 64 ≤ len := by
  have hblocks := geometry_nblk_mul_blkLen_le len secretLen
  have hnext := Nat.mul_le_mul_right (geometry len secretLen).blkLen hblk
  rw [Nat.succ_mul] at hnext
  have hsize := geometry_blkLen len secretLen
  simp only [stripeLen]
  omega

theorem tail_within_input (hstr : str < (geometry len secretLen).nst) :
    (geometry len secretLen).nblk * (geometry len secretLen).blkLen + stripeLen * str + 64 ≤ len := by
  have hnst : (geometry len secretLen).nst =
      (len - 1 - (geometry len secretLen).blkLen * (geometry len secretLen).nblk) / 64 := rfl
  rw [Nat.mul_comm] at hnst
  simp only [stripeLen]
  omega

/-- After the whole blocks less than one block is left. -/
theorem geometry_nst_le_nspb (hsecret : 72 ≤ secretLen) :
    (geometry len secretLen).nst ≤ (geometry len secretLen).nspb := by
  have hnst : (geometry len secretLen).nst = (len - 1) % (geometry len secretLen).blkLen / 64 := by
    rw [Nat.mod_eq_sub]
    rfl
  have hnspb : (geometry len secretLen).nspb = (secretLen - 64) / 8 := rfl
  have hsize := geometry_blkLen len secretLen
  have hleft := Nat.mod_lt (len - 1) (y := (geometry len secretLen).blkLen) (by omega)
  omega

end Geometry

/-! ### The secret of an accepted request -/

theorem Request.secretMin_le_of_accepted {r : Request} (h : r.accepted = true) (hen : r.secretEn = true) :
    136 ≤ r.secretLen.toNat := by
  by_contra hshort
  have hlt : r.secretLen.toNat < secretMin := Nat.lt_of_not_le hshort
  simp [Request.accepted, hen, hlt] at h

theorem Request.le_len_secretInUse {r : Request} (h : r.accepted = true) : 136 ≤ r.secretInUse.len := by
  unfold Request.secretInUse
  split
  · exact r.secretMin_le_of_accepted h ‹_›
  · decide

theorem Request.le_len_mixSource {r : Request} (h : r.accepted = true) (cfg : Config) :
    136 ≤ (r.mixSource cfg).len := by
  unfold Request.mixSource
  split
  · decide
  · exact r.le_len_secretInUse h

theorem Request.le_len_effectiveSecret {r : Request} (h : r.accepted = true) (cfg : Config) :
    136 ≤ (r.effectiveSecret cfg).len := by
  unfold Request.effectiveSecret
  split
  · exact r.le_len_mixSource h cfg
  · exact r.le_len_secretInUse h

/-! ### The same call over other buffers -/

/-- `s` with other contents of `IN` and `SEC`. -/
@[simps] def State.withBuffers (s : State) (m m' : Memory) : State := { s with inMem := m, secMem := m' }

@[simp] theorem State.withBuffers_geometry (s : State) (m m' : Memory) :
    (s.withBuffers m m').geometry = s.geometry := rfl

@[simp] theorem State.withBuffers_effectiveLen (s : State) (m m' : Memory) :
    (s.withBuffers m m').effectiveLen = s.effectiveLen := rfl

theorem State.withBuffers_takeAnswer (s : State) (m m' : Memory) :
    (s.withBuffers m m').takeAnswer = s.takeAnswer.withBuffers m m' := by
  simp only [State.takeAnswer, State.withBuffers_ovr, State.withBuffers_answer]
  split <;> rfl

theorem State.withBuffers_overrideCall (s : State) (m m' : Memory) :
    (s.withBuffers m m').overrideCall = s.overrideCall.withBuffers m m' := by
  simp only [State.overrideCall, State.withBuffers_ovr]
  split
  · rfl
  · exact s.withBuffers_takeAnswer m m'

/-- Both outcomes are next states, the same but for `IN` and `SEC`, which are `m` and `m'` in the second. -/
def SameNext (m m' : Memory) (o o' : Host.Outcome State Fault Refusal) : Prop :=
  ∃ t, o = .next t ∧ o' = .next (t.withBuffers m m')

/-- The operation does the same from `s` and from `s` over the other buffers. -/
def State.SameOverBuffers (s : State) (m m' : Memory) (f : State → Host.Outcome State Fault Refusal) : Prop :=
  SameNext m m' (f s) (f (s.withBuffers m m'))

theorem sameNext_handOver {s : State} {m m' : Memory} {v v' : U64} (hv : v' = v) :
    SameNext m m' (.next (s.handOver v)) (.next ((s.withBuffers m m').handOver v')) :=
  ⟨_, rfl, hv ▸ rfl⟩

/-- The other buffers have the bytes in use from `s`: `IN[0 .. L)`, and `SEC[0 .. S_custom)` of a supplied secret. -/
structure State.AgreeInUse (s : State) (m m' : Memory) : Prop where
  input : AgreeBelow s.req.len.toNat (s.withBuffers m m').input s.input
  secret : s.req.secretEn = true → AgreeBelow s.req.secretLen.toNat m'.read s.secMem.read

section TwoRuns

variable {s : State} {m m' : Memory}

/-! #### Operations that read neither buffer -/

theorem execCheck_sameOverBuffers : s.SameOverBuffers m m' execCheck := by
  simp only [State.SameOverBuffers, execCheck, State.withBuffers_req]
  split
  · exact ⟨_, rfl, rfl⟩
  · split <;> exact ⟨_, rfl, rfl⟩

theorem execOvrWait_sameOverBuffers : s.SameOverBuffers m m' execOvrWait :=
  ⟨_, rfl, congrArg _ (s.withBuffers_overrideCall m m')⟩

theorem execFinal_sameOverBuffers : s.SameOverBuffers m m' execFinal := by
  simp only [State.SameOverBuffers, execFinal, State.withBuffers_req]
  split
  case h_4 => exact ⟨_, rfl, congrArg _ (s.withBuffers_takeAnswer m m')⟩
  all_goals exact ⟨_, rfl, rfl⟩

/-! #### The secrets they read -/

namespace State.AgreeInUse

variable (h : s.AgreeInUse m m')
include h

theorem secretInUse_agree : AgreeBelow s.req.secretInUse.len ((s.withBuffers m m').space s.req.secretInUse.space)
    (s.space s.req.secretInUse.space) := by
  unfold Request.secretInUse
  split
  · exact h.secret ‹_›
  · exact .refl _ _

theorem mixSource_agree : AgreeBelow (s.req.mixSource s.cfg).len
    ((s.withBuffers m m').space (s.req.mixSource s.cfg).space) (s.space (s.req.mixSource s.cfg).space) := by
  unfold Request.mixSource
  split
  · exact .refl _ _
  · exact h.secretInUse_agree

theorem effectiveSecret_agree : AgreeBelow s.effectiveLen (s.withBuffers m m').effectiveSecret s.effectiveSecret := by
  simp only [State.effectiveLen, State.effectiveSecret, State.withBuffers_req, State.withBuffers_cfg,
    Request.effectiveSecret]
  split
  · exact .refl _ _
  · exact h.secretInUse_agree

theorem shortSecret_agree (hacc : s.req.accepted = true) :
    AgreeBelow 136 (s.withBuffers m m').shortSecret s.shortSecret := by
  simp only [State.shortSecret, State.withBuffers_req, Request.shortSecret]
  split
  · exact h.secretInUse_agree.mono (s.req.le_len_secretInUse hacc)
  · exact .refl _ _

theorem accumulated_eq {io so : Nat} (hio : io + 64 ≤ s.req.len.toNat) (hso : so + 64 ≤ s.effectiveLen) :
    (s.withBuffers m m').accumulated io so = s.accumulated io so :=
  accumulate_congr _ _ _ _ io so s.acc (fun k _ hk => h.input k (by omega)) fun k _ hk =>
    h.effectiveSecret_agree k (by omega)

/-! #### Operations that read them -/

theorem execShort_sameOverBuffers (hacc : s.req.accepted = true) (hlong : s.req.bucket ≠ .long) :
    s.SameOverBuffers m m' execShort := by
  have hs := h.shortSecret_agree hacc
  have hi := h.input
  simp only [State.SameOverBuffers, execShort, State.withBuffers_req]
  split <;> rename_i hbucket <;> have hlen := Request.bucket_covers hbucket
  · exact sameNext_handOver (pre0_congr hs)
  · exact sameNext_handOver (pre1_3_congr hi hs hlen.1)
  · exact sameNext_handOver (pre4_8_congr hi hs hlen.1)
  · exact sameNext_handOver (pre9_16_congr hi hs hlen.1)
  · exact sameNext_handOver (pre17_128_congr hi hs hlen.1 hlen.2)
  · exact sameNext_handOver (pre129_240_congr hi hs hlen.1 hlen.2)
  · exact absurd hbucket hlong

theorem execSeedmix_sameOverBuffers : s.SameOverBuffers m m' execSeedmix := by
  refine ⟨_, rfl, ?_⟩
  simp only [execSeedmix, State.withBuffers_req, State.withBuffers_cfg, seedMixBytes_congr h.mixSource_agree]
  rfl

theorem execStripe_sameOverBuffers (hblk : s.seq.blk.toNat < s.geometry.nblk)
    (hstr : s.seq.str.toNat < s.geometry.nspb) : s.SameOverBuffers m m' execStripe := by
  have hinput : s.seq.blk.toNat * s.geometry.blkLen + stripeLen * s.seq.str.toNat + 64 ≤ s.req.len.toNat :=
    stripe_within_input hblk hstr
  have hsecret : secretConsume * s.seq.str.toNat + 64 ≤ s.effectiveLen := stripe_within_secret hstr
  simp only [State.SameOverBuffers, execStripe, State.withBuffers_seq, State.withBuffers_geometry,
    h.accumulated_eq hinput hsecret]
  split <;> exact ⟨_, rfl, rfl⟩

theorem execScramble_sameOverBuffers (hlen : 64 ≤ s.effectiveLen) : s.SameOverBuffers m m' execScramble := by
  refine ⟨_, rfl, ?_⟩
  simp only [execScramble, State.withBuffers_acc, State.withBuffers_effectiveLen,
    scrambleLanes_congr h.effectiveSecret_agree hlen]
  rfl

theorem execTail_sameOverBuffers (hlen : 72 ≤ s.effectiveLen) (hstr : s.seq.str.toNat < s.geometry.nst) :
    s.SameOverBuffers m m' execTail := by
  have hinput : s.geometry.nblk * s.geometry.blkLen + stripeLen * s.seq.str.toNat + 64 ≤ s.req.len.toNat :=
    tail_within_input hstr
  have hsecret : secretConsume * s.seq.str.toNat + 64 ≤ s.effectiveLen :=
    stripe_within_secret (Nat.lt_of_lt_of_le hstr (geometry_nst_le_nspb hlen))
  simp only [State.SameOverBuffers, execTail, State.withBuffers_seq, State.withBuffers_geometry,
    h.accumulated_eq hinput hsecret]
  split <;> exact ⟨_, rfl, rfl⟩

theorem execLast_sameOverBuffers (hinput : 64 ≤ s.req.len.toNat) (hlen : 71 ≤ s.effectiveLen) :
    s.SameOverBuffers m m' execLast := by
  refine ⟨_, rfl, ?_⟩
  simp only [execLast, State.withBuffers_req, State.withBuffers_effectiveLen,
    h.accumulated_eq (io := s.req.len.toNat - 64) (so := s.effectiveLen - 71) (by omega) (by omega)]
  rfl

theorem execMerge_sameOverBuffers (hlen : 75 ≤ s.effectiveLen) : s.SameOverBuffers m m' execMerge :=
  sameNext_handOver (mergeLanes_congr h.effectiveSecret_agree hlen _ _)

/-- In a state that fits its phase, the phase's operation does the same over the other buffers. -/
theorem exec_phase_sameOverBuffers (hphase : s.phaseOk) : s.SameOverBuffers m m' (exec s.seq.phase.instr) := by
  have hlen (hacc : s.req.accepted = true) : 136 ≤ s.effectiveLen := s.req.le_len_effectiveSecret hacc s.cfg
  unfold State.phaseOk at hphase
  cases hp : s.seq.phase <;> rw [hp] at hphase
  case check => exact execCheck_sameOverBuffers
  case short =>
    obtain ⟨hacc, hshort⟩ := hphase
    exact h.execShort_sameOverBuffers hacc hshort
  case seedmix => exact h.execSeedmix_sameOverBuffers
  case ovrWait => exact execOvrWait_sameOverBuffers
  case stripe =>
    obtain ⟨-, -, -, hblk, hstr⟩ := hphase
    exact h.execStripe_sameOverBuffers hblk hstr
  case scramble =>
    obtain ⟨hacc, -⟩ := hphase
    exact h.execScramble_sameOverBuffers (Nat.le_trans (by decide) (hlen hacc))
  case tail =>
    obtain ⟨hacc, -, -, -, hstr⟩ := hphase
    exact h.execTail_sameOverBuffers (Nat.le_trans (by decide) (hlen hacc)) hstr
  case last =>
    obtain ⟨hacc, hlong, -⟩ := hphase
    have hinput : 241 ≤ s.req.len.toNat := Request.bucket_covers hlong
    exact h.execLast_sameOverBuffers (Nat.le_trans (by decide) hinput) (Nat.le_trans (by decide) (hlen hacc))
  case merge =>
    obtain ⟨hacc, -⟩ := hphase
    exact h.execMerge_sameOverBuffers (Nat.le_trans (by decide) (hlen hacc))
  case final => exact execFinal_sameOverBuffers
  case idle | dispatch | accInit | format | done | err => exact ⟨_, rfl, rfl⟩

end State.AgreeInUse

end TwoRuns

end Sys2Proof.Machine
end

section
/-! PROOFS. The statements about the unassigned codes and the memories. -/

namespace Sys2Proof.Proofs

open Sys2Proof.Machine

/-- Settles O3, format by format: only a host access and a selector can be no operation. -/
theorem decodeRejectsExactlyTheUnassigned : Obligations.DecodeRejectsExactlyTheUnassigned := by
  rintro ⟨fmt, bits⟩
  by_cases hfit : bits < 2 ^ fmt.width
  case neg => simp [decode, hfit, Nat.le_of_not_lt hfit]
  have hwide : ¬2 ^ fmt.width ≤ bits := Nat.not_le.2 hfit
  have hbits : (BitVec.ofNat fmt.width bits).toNat = bits := by rw [BitVec.toNat_ofNat, Nat.mod_eq_of_lt hfit]
  cases fmt
  case hostacc =>
    have herr := decodeHostacc_error_iff (BitVec.ofNat 72 bits)
    rw [show (BitVec.ofNat 72 bits).toNat = bits from hbits] at herr
    simp only [decode, hfit, if_true, herr, exists_or, exists_and_left, exists_eq', hwide, reduceCtorEq]
    tauto
  case dsel =>
    have herr := decodeDsel_error_iff (BitVec.ofNat 4 bits)
    rw [show (BitVec.ofNat 4 bits).toNat = bits from hbits] at herr
    simp [decode, hfit, herr, hwide]
  all_goals simp [decode, hfit, hwide]

/-- Settles O15: there is no register at such an offset, and neither word decodes. -/
theorem unlistedOffsetsFault : Obligations.UnlistedOffsetsFault := by
  intro s offset v
  have hv := v.isLt
  have ho := offset.isLt
  refine ⟨fun h => ⟨exec_wr_of_no_reg h v s, ?_⟩, fun h => ⟨exec_rd_of_no_reg h s, ?_⟩⟩
  · refine step_access_of_decode_error ((decodeHostacc_error_iff _ _).2 (.inl ?_)) s
    have hoff : (encodeWr offset v).toNat / 2 ^ 64 % 2 ^ 7 = offset.toNat := by rw [toNat_encodeWr]; omega
    exact ⟨by rw [toNat_encodeWr]; omega, hoff ▸ h, rfl⟩
  · refine step_access_of_decode_error ((decodeHostacc_error_iff _ _).2 (.inr ?_)) s
    have hoff : (encodeRd offset).toNat / 2 ^ 64 % 2 ^ 7 = offset.toNat := by rw [toNat_encodeRd]; omega
    exact ⟨by rw [toNat_encodeRd]; omega, .inl ⟨hoff ▸ h, rfl⟩⟩

/-- Settles O24: every phase writes only what a running call owns; SEEDMIX also `ESEC`. -/
theorem datapathWritesNoHostState : Obligations.DatapathWritesNoHostState := by
  intro s t hi h
  obtain ⟨hside, hesec⟩ := step_callSideOnly hi h
  unfold State.CallSideOnly at hside
  rw [hside]
  exact ⟨rfl, rfl, rfl, rfl, rfl, rfl, rfl, rfl, rfl, hi, rfl, hesec⟩

/-- Settles O57: the step is the phase's operation, over either pair of buffers. -/
theorem stepReadsOnlyTheBuffersInUse : Obligations.StepReadsOnlyTheBuffersInUse := by
  intro s m m' hinv hi hin hsec
  obtain ⟨t, ht, ht'⟩ := State.AgreeInUse.exec_phase_sameOverBuffers ⟨hin, hsec⟩ hinv.phase
  exact ⟨t, (step_of_no_inputs s hi).trans ht, (step_of_no_inputs (s.withBuffers m m') hi).trans ht'⟩

end Sys2Proof.Proofs
end

section
/-! SUPPORT. What decoding gives: the encoder's words back, the rows of the opcode table, and the rows the selectors and
the status fields name. -/

namespace Sys2Proof.Machine

/-! ### Decoding what was encoded -/

/-- The three fields of a host access word (`30_encoding.md` rule R60). -/
theorem hostacc_fields {w : BitVec 72} {dir : Bool} {offset : BitVec 7} {v : U64}
    (h : w.toNat = 2 ^ 71 * dir.toNat + 2 ^ 64 * offset.toNat + v.toNat) :
    w.getLsbD 71 = dir ∧ w.extractLsb' 64 7 = offset ∧ w.extractLsb' 0 64 = v := by
  have hv := v.isLt
  have ho := offset.isLt
  refine ⟨?_, BitVec.eq_of_toNat_eq ?_, BitVec.eq_of_toNat_eq ?_⟩
  · rw [Bool.eq_iff_iff, getLsbD_eq_true_iff, h]
    cases dir <;> simp <;> omega
  · rw [toNat_extractLsb', h]
    omega
  · rw [toNat_extractLsb', h]
    omega

theorem decodeHostacc_encodeWr {offset : BitVec 7} (h : writeOffsets.contains offset = true) (v : U64) :
    decodeHostacc (encodeWr offset v) = .ok (.wr offset v) := by
  obtain ⟨hdir, hoff, hval⟩ := hostacc_fields (dir := true) (toNat_encodeWr offset v)
  simp only [decodeHostacc, hdir, hoff, hval, h, if_true]

theorem decodeHostacc_encodeRd {offset : BitVec 7} (h : readOffsets.contains offset = true) :
    decodeHostacc (encodeRd offset) = .ok (.rd offset) := by
  obtain ⟨hdir, hoff, hval⟩ := hostacc_fields (w := encodeRd offset) (dir := false) (offset := offset) (v := 0) (by
    rw [toNat_encodeRd]
    simp)
  simp only [decodeHostacc, hdir, hoff, hval, h, if_true, if_false, Bool.false_eq_true]

theorem decodeCmd_encodeCmd (op secretEn ovrEn inNull : Bool) :
    decodeCmd (encodeCmd op secretEn ovrEn inNull) = Reference.command op secretEn ovrEn inNull := by
  revert op secretEn ovrEn inNull
  decide

/-! ### Bits of words -/

theorem getLsbD_eq_beq {n : Nat} (w : BitVec n) (k : Nat) : w.getLsbD k = (w.toNat / 2 ^ k % 2 == 1) := by
  rw [Bool.eq_iff_iff, getLsbD_eq_true_iff, beq_iff_eq]

/-- The number two codes side by side spell. -/
theorem toNat_append_eq_add {m n : Nat} (x : BitVec m) (y : BitVec n) :
    (x ++ y).toNat = 2 ^ n * x.toNat + y.toNat := by
  rw [BitVec.toNat_append, ← Nat.shiftLeft_add_eq_or_of_lt y.isLt, Nat.shiftLeft_eq, Nat.mul_comm]

theorem CmdReg.ofWord_congr {v w : U64} (h : v.toNat % 16 = w.toNat % 16) : CmdReg.ofWord v = CmdReg.ofWord w := by
  have hmod : v.toNat % 2 ^ 4 = w.toNat % 2 ^ 4 := h
  have hlow (k : Nat) (hk : k < 4) : v.getLsbD k = w.getLsbD k := by
    have hbit := congrArg (Nat.testBit · k) hmod
    simpa only [Nat.testBit_mod_two_pow, hk, decide_true, Bool.true_and, BitVec.testBit_toNat] using hbit
  simp only [CmdReg.ofWord, hlow 0 (by decide), hlow 1 (by decide), hlow 2 (by decide), hlow 3 (by decide)]

/-! ### The rows of the opcode table -/

/-- A code's format and bits are those of an operation's row of `opcode_table.json`, and the spec encodes the
operation. -/
abbrev MatchesRow (i : Instr) (fmt : Format) (bits : Nat) : Prop :=
  fmt = i.fmt ∧ bits &&& i.tableRow.2 = i.tableRow.1 ∧ i.wellFormed = true

theorem decodeHostacc_matchesRow {w : BitVec 72} {i : Instr} (h : decodeHostacc w = .ok i) :
    MatchesRow i .hostacc w.toNat := by
  have hand : w.toNat &&& 0x800000000000000000 = (w.getLsbD 71).toNat * 2 ^ 71 := by
    rw [← BitVec.testBit_toNat]
    exact Nat.and_two_pow w.toNat 71
  unfold decodeHostacc at h
  dsimp only at h
  split at h
  · rename_i hdir
    split at h <;> cases h
    exact ⟨rfl, by rw [Instr.tableRow, hand, hdir]; rfl, ‹_›⟩
  · rename_i hdir
    split at h
    · split at h <;> cases h
      exact ⟨rfl, by rw [Instr.tableRow, hand, Bool.eq_false_of_not_eq_true hdir]; rfl, ‹_›⟩
    · cases h

theorem decodeCmd_matchesRow (w : U64) : MatchesRow (decodeCmd w) .cmd w.toNat := by
  have hand : w.toNat &&& 0x1 = (w.getLsbD 0).toNat := by
    rw [Nat.and_one_is_mod, getLsbD_eq_beq]
    rcases Nat.mod_two_eq_zero_or_one w.toNat with h | h <;> simp [h]
  unfold decodeCmd
  split
  · rename_i hop
    exact ⟨rfl, hand.trans (by rw [hop]; rfl), rfl⟩
  · rename_i hop
    exact ⟨rfl, hand.trans (by rw [Bool.eq_false_of_not_eq_true hop]; rfl), rfl⟩

theorem decodeDsel_matchesRow {w : BitVec 4} {i : Instr} (h : decodeDsel w = .ok i) : MatchesRow i .dsel w.toNat := by
  have hall : ∀ w : BitVec 4, ∀ i ∈ (decodeDsel w).toOption, MatchesRow i .dsel w.toNat := by decide
  exact hall w i (by rw [h]; rfl)

theorem decodePhase_matchesRow (w : BitVec 4) : MatchesRow (decodePhase w) .phase w.toNat := by
  revert w
  decide

theorem decodeFmix_matchesRow (w : BitVec 2) : MatchesRow (decodeFmix w) .fmix w.toNat := by
  revert w
  decide

/-! ### The rows that SHORT and FINAL run -/

/-- The row the selector `ovr_en || BUCKET` names (`30_encoding.md` rule R64). -/
def Bucket.row (ovrEn : Bool) : Bucket → Instr
  | .len0 => .len0
  | .len1_3 => .len1_3
  | .len4_8 => .len4_8
  | .len9_16 => .len9_16
  | .len17_128 => .len17_128
  | .len129_240 => .len129_240
  | .long => if ovrEn then .longOvr else .long

theorem decode_selector (b : Bucket) (ovrEn : Bool) :
    decode ⟨.dsel, (if ovrEn then 8 else 0) + b.code.toNat⟩ = .ok (b.row ovrEn) := by
  cases b <;> cases ovrEn <;> rfl

/-- The boundaries at or below a length count up to its bucket's code. -/
theorem bucketCode_of_covers {b : Bucket} {n : Nat} (h : b.Covers n) : Reference.bucketCode n = b.code.toNat := by
  simp only [Reference.bucketCode, ← List.countP_eq_length_filter, List.countP_cons, List.countP_nil, decide_eq_true_eq]
  cases b <;> simp only [Bucket.Covers] at h <;> simp only [Bucket.code] <;> grind

theorem exec_short_eq_row (s : State) : exec .short s = exec (s.req.bucket.row s.req.ovrEn) s := by
  simp only [exec, execShort]
  cases s.req.bucket
  case long => cases s.req.ovrEn <;> rfl
  all_goals rfl

/-- The code of a final mixer (`30_encoding.md` rule R67). -/
def Mixer.code : Mixer → Nat
  | .aval64 => 0
  | .rrmxmx => 1
  | .aval3 => 2
  | .bypass => 3

/-- The row of a final mixer (`30_encoding.md` rule R67). -/
def Mixer.row : Mixer → Instr
  | .aval64 => .aval64
  | .rrmxmx => .rrmxmx
  | .aval3 => .aval3
  | .bypass => .bypass

theorem decode_mixer (m : Mixer) : decode ⟨.fmix, m.code⟩ = .ok m.row := by
  cases m <;> rfl

theorem mixerCode_eq (r : Request) : Reference.mixerCode r.len.toNat r.ovrEn = r.mixer.code := by
  have hlen := Request.bucket_covers (r := r) rfl
  unfold Request.mixer Reference.mixerCode
  cases hb : r.bucket <;> rw [hb] at hlen <;> simp only [Bucket.Covers] at hlen
  case long =>
    rw [if_neg (by omega), if_neg (by omega)]
    cases r.ovrEn <;> simp [Mixer.code]; omega
  all_goals simp only [Mixer.code]; grind

theorem exec_final_eq_row (s : State) : exec .final s = exec s.req.mixer.row s := by
  simp only [exec, execFinal]
  cases s.req.mixer <;> rfl

/-! ### The fields of the status word -/

theorem toNat_bucketField (b : Option Bucket) : (bucketField b).toNat = Reference.bucketNumber b := by
  rcases b with _ | b
  · rfl
  · cases b <;> rfl

theorem toNat_errCode (e : ErrCode) : e.code.toNat = Reference.errNumber e := by
  cases e <;> rfl

theorem toNat_stateCode (p : Phase) : p.stateCode.toNat = Reference.stateCode p.code := by
  cases p <;> rfl

end Sys2Proof.Machine
end

section
/-! PROOFS. The statements about the encodings. -/

namespace Sys2Proof.Proofs

open Sys2Proof.Machine

/-- Settles O1, format by format: only a host access and a command have operands. -/
theorem decodeOfEncodeGivesBack : Obligations.DecodeOfEncodeGivesBack := by
  intro i hi
  cases i
  case wr offset v => exact (decode_accessCode _).trans (decodeHostacc_encodeWr hi v)
  case rd offset => exact (decode_accessCode _).trans (decodeHostacc_encodeRd hi)
  case hash secretEn ovrEn inNull =>
    exact (decode_commandCode _).trans (congrArg Except.ok (decodeCmd_encodeCmd false secretEn ovrEn inNull))
  case hashHex secretEn ovrEn inNull =>
    exact (decode_commandCode _).trans (congrArg Except.ok (decodeCmd_encodeCmd true secretEn ovrEn inNull))
  all_goals rfl

/-- Settles O2, format by format. -/
theorem decodedCodeMatchesItsTableRow : Obligations.DecodedCodeMatchesItsTableRow := by
  rintro ⟨fmt, bits⟩ i h
  by_cases hfit : bits < 2 ^ fmt.width
  case neg => simp [decode, hfit] at h
  have hbits : (BitVec.ofNat fmt.width bits).toNat = bits := by rw [BitVec.toNat_ofNat, Nat.mod_eq_of_lt hfit]
  suffices hmatch : MatchesRow i fmt (BitVec.ofNat fmt.width bits).toNat by
    obtain ⟨hfmt, hrow, hwf⟩ := hbits ▸ hmatch
    exact ⟨hfmt, hfit, hrow, hwf⟩
  simp only [decode, hfit, if_true] at h
  cases fmt
  case hostacc => exact decodeHostacc_matchesRow h
  case cmd => exact Except.ok.inj h ▸ decodeCmd_matchesRow _
  case dsel => exact decodeDsel_matchesRow h
  case phase => exact Except.ok.inj h ▸ decodePhase_matchesRow _
  case fmix => exact Except.ok.inj h ▸ decodeFmix_matchesRow _

/-- Settles O5: the decoder reads bits 0 to 3 of the word and a write of `CMD` keeps no other. -/
theorem commandWordReservedBitsIgnored : Obligations.CommandWordReservedBitsIgnored := by
  refine ⟨fun v => (decode_commandCode v).trans (congrArg Except.ok ?_), fun s v w h => ?_⟩
  · simp only [decodeCmd, Reference.command, getLsbD_eq_beq]
    norm_num
  · rw [exec_wr_cmd, exec_wr_cmd, CmdReg.ofWord_congr h]

/-- Settles O7: SHORT and FINAL are `exec_short_eq_row` and `exec_final_eq_row`, and a write of `CMD` is the command. -/
theorem selectorRowsRunInTheirPhases : Obligations.SelectorRowsRunInTheirPhases := by
  intro s
  refine ⟨⟨_, ?_, exec_short_eq_row s⟩, ⟨_, ?_, exec_final_eq_row s⟩, fun v =>
    ⟨_, decode_commandCode v, (exec_wr_cmd v s).trans (exec_decodeCmd v s).symm⟩⟩
  · rw [bucketCode_of_covers (Request.bucket_covers rfl), decode_selector]
  · rw [mixerCode_eq, decode_mixer]

/-- Settles O16: the fields side by side, each at its number. -/
theorem statusWordLayout : Obligations.StatusWordLayout := by
  intro s
  simp only [statusWord, toNat_append_eq_add, toNat_bucketField, toNat_errCode, toNat_stateCode, BitVec.toNat_ofBool,
    BitVec.toNat_ofNat, Nat.zero_mod]
  ring

/-- Settles O4: the decoder evaluates each word. -/
theorem printedWordsDecode : Obligations.PrintedWordsDecode :=
  ⟨rfl, rfl, rfl, rfl, rfl, rfl, rfl, rfl, rfl⟩

end Sys2Proof.Proofs
end

section
/-! SUPPORT. What each phase's operation leaves, and what it needs of the invariant: the steps of a call by phase
(`40_dispatch.md` rule R84). -/

namespace Sys2Proof.Machine

/-! ### Counters and loop counts -/

theorem toNat_add_one {x : U64} {n : Nat} (h : x.toNat < n) (hn : n < 2 ^ 64) : (x + 1).toNat = x.toNat + 1 := by
  rw [BitVec.toNat_add]
  exact Nat.mod_eq_of_lt (Nat.lt_of_le_of_lt h hn)

theorem geometry_nspb_pos {len secretLen : Nat} (h : 72 ≤ secretLen) : 0 < (geometry len secretLen).nspb :=
  Nat.div_pos (show 8 ≤ secretLen - 64 by omega) (by decide)

theorem geometry_nspb_le (len secretLen : Nat) : (geometry len secretLen).nspb ≤ secretLen :=
  (Nat.div_le_self _ _).trans (Nat.sub_le _ _)

theorem geometry_nblk_le (len secretLen : Nat) : (geometry len secretLen).nblk ≤ len :=
  (Nat.div_le_self _ _).trans (Nat.sub_le _ _)

theorem geometry_nst_le (len secretLen : Nat) : (geometry len secretLen).nst ≤ len :=
  (Nat.div_le_self _ _).trans ((Nat.sub_le _ _).trans (Nat.sub_le _ _))

/-- Without a whole block the input has whole stripes. -/
theorem geometry_nst_pos {len secretLen : Nat} (hlen : 65 ≤ len) (h : (geometry len secretLen).nblk = 0) :
    0 < (geometry len secretLen).nst := by
  have hnst : (geometry len secretLen).nst =
      (len - 1 - (geometry len secretLen).blkLen * (geometry len secretLen).nblk) / 64 := rfl
  rw [hnst, h, Nat.mul_zero]
  exact Nat.div_pos (by omega) (by decide)

theorem Request.len_secretInUse_lt (r : Request) : r.secretInUse.len < 2 ^ 64 := by
  unfold Request.secretInUse
  split
  · exact r.secretLen.isLt
  · decide

theorem Request.len_effectiveSecret_lt (r : Request) (cfg : Config) : (r.effectiveSecret cfg).len < 2 ^ 64 := by
  unfold Request.effectiveSecret Request.mixSource
  split
  · dsimp only
    split
    · decide
    · exact r.len_secretInUse_lt
  · exact r.len_secretInUse_lt

theorem State.nspb_lt (s : State) : s.geometry.nspb < 2 ^ 64 :=
  (geometry_nspb_le _ _).trans_lt (s.req.len_effectiveSecret_lt s.cfg)

theorem State.nblk_lt (s : State) : s.geometry.nblk < 2 ^ 64 := (geometry_nblk_le _ _).trans_lt s.req.len.isLt

theorem State.nst_lt (s : State) : s.geometry.nst < 2 ^ 64 := (geometry_nst_le _ _).trans_lt s.req.len.isLt

theorem State.nspb_pos {s : State} (hacc : s.req.accepted = true) : 0 < s.geometry.nspb :=
  geometry_nspb_pos (Nat.le_trans (by decide) (s.req.le_len_effectiveSecret hacc s.cfg))

theorem State.nst_pos {s : State} (hlong : s.req.bucket = .long) (hblk : s.geometry.nblk = 0) : 0 < s.geometry.nst :=
  geometry_nst_pos (Nat.le_trans (by decide) (show 241 ≤ s.req.len.toNat from Request.bucket_covers hlong)) hblk

/-! ### The dispatcher, the short buckets and the final mixers -/

theorem execCheck_of_accepted {s : State} (h : s.req.accepted = true) : execCheck s = .next (s.goto .dispatch) := by
  simp only [Request.accepted, Bool.and_eq_true, Bool.not_eq_true'] at h
  simp [execCheck, h]

/-- A request that CHECK does not send to the error state is accepted. -/
theorem execCheck_cases {s t : State} (h : execCheck s = .next t) :
    (∃ e, e ≠ .none ∧ t = s.raise e) ∨ (s.req.accepted = true ∧ t = s.goto .dispatch) := by
  by_cases hacc : s.req.accepted = true
  · exact .inr ⟨hacc, Host.Outcome.next.inj (h.symm.trans (execCheck_of_accepted hacc))⟩
  · unfold execCheck at h
    split at h
    · exact .inl ⟨.invalidSecret, by decide, (Host.Outcome.next.inj h).symm⟩
    · rename_i hsecret
      split at h
      · exact .inl ⟨.invalidInput, by decide, (Host.Outcome.next.inj h).symm⟩
      · rename_i hinput
        rw [Request.accepted] at hacc
        simp only [hsecret, hinput] at hacc
        simp at hacc

/-- Everywhere the dispatcher can send a call. -/
theorem State.dispatchTarget_cases (s : State) :
    (s.req.bucket ≠ .long ∧ s.dispatchTarget = .short) ∨
      (s.req.bucket = .long ∧ s.req.mix s.cfg = true ∧ s.dispatchTarget = .seedmix) ∨
      (s.req.bucket = .long ∧ s.req.mix s.cfg = false ∧
        s.dispatchTarget = if s.req.ovrEn then .ovrWait else .accInit) := by
  unfold State.dispatchTarget
  cases hb : s.req.bucket
  case long => cases hm : s.req.mix s.cfg <;> simp
  all_goals simp

/-- The pre-final value of a short bucket (`41_short.md` rule R90); bucket 6 has none. -/
def Request.shortPre (r : Request) (inp sec : Bytes) : U64 :=
  match r.bucket with
  | .len0 => pre0 sec r.seed
  | .len1_3 => pre1_3 inp sec r.len r.seed
  | .len4_8 => pre4_8 inp sec r.len r.seed
  | .len9_16 => pre9_16 inp sec r.len r.seed
  | .len17_128 => pre17_128 inp sec r.len r.seed
  | .len129_240 => pre129_240 inp sec r.len r.seed
  | .long => 0

theorem execShort_of_short {s : State} (h : s.req.bucket ≠ .long) :
    execShort s = .next (s.handOver (s.req.shortPre s.input s.shortSecret)) := by
  unfold execShort Request.shortPre
  cases hb : s.req.bucket
  case long => exact absurd hb h
  all_goals rfl

/-- What a final mixer makes of `PRE` and `L` (`44_finalizer.md` rules R135 to R137); the bypass makes nothing. -/
def Mixer.apply (m : Mixer) (pre len : U64) : U64 :=
  match m with
  | .aval64 => Machine.aval64 pre
  | .rrmxmx => Machine.rrmxmx pre len
  | .aval3 => Machine.aval3 pre
  | .bypass => pre

theorem Request.mixer_ne_bypass {r : Request} (h : r.consultsUnit = false) : r.mixer ≠ .bypass := by
  unfold Request.consultsUnit at h
  unfold Request.mixer
  cases hb : r.bucket
  case long =>
    have hovr : r.ovrEn = false := by simpa [hb] using h
    simp [hovr]
  all_goals simp

theorem execFinal_of_not_consulted {s : State} (h : s.req.consultsUnit = false) :
    execFinal s = .next (s.deliver (s.req.mixer.apply s.pre s.req.len)) := by
  unfold execFinal
  cases hm : s.req.mixer
  case bypass => exact absurd hm (Request.mixer_ne_bypass h)
  all_goals rfl

/-! ### The flags before and after the result -/

/-- Phases in which a call has neither a result nor an error. -/
def Phase.beforeResult : Phase → Bool
  | .idle | .check | .dispatch | .short | .seedmix | .ovrWait | .accInit | .stripe | .scramble | .tail | .last | .merge
  | .final => true
  | .format | .done | .err => false

/-- The flags in those phases: no error, the bucket once it is chosen, no valid bit. -/
def State.plainStatus (s : State) : Status where
  err := .none
  bucket := if s.seq.phase.beforeBucket then none else some s.req.bucket
  ovrUsed := false
  hexValid := false

section Invariant

variable {s t : State}

theorem State.Inv.status_eq (h : s.Inv) (hp : s.seq.phase.beforeResult = true) : s.status = s.plainStatus := by
  have herr : s.status.err = .none := by
    by_contra hne
    rw [h.err.1 hne] at hp
    cases hp
  have hovr : s.status.ovrUsed = false := by
    by_contra hne
    obtain ⟨hphase | hphase, -⟩ := h.ovrUsed.1 (Bool.eq_true_of_not_eq_false hne) <;> rw [hphase] at hp <;> cases hp
  have hhex : s.status.hexValid = false := by
    by_contra hne
    obtain ⟨hphase, -⟩ := h.hexValid.1 (Bool.eq_true_of_not_eq_false hne)
    rw [hphase] at hp
    cases hp
  calc s.status = ⟨s.status.err, s.status.bucket, s.status.ovrUsed, s.status.hexValid⟩ := rfl
    _ = s.plainStatus := by rw [herr, h.bucket, hovr, hhex, State.plainStatus]

theorem State.inv_of_plainStatus (hp : t.seq.phase.beforeResult = true) (hstatus : t.status = t.plainStatus)
    (hmem : t.inMem.wf ∧ t.secMem.wf ∧ t.esecMem.wf) (hok : t.phaseOk)
    (hovr : ∀ o, t.ovr = some o → t.seq.phase = .ovrWait ∧
      o = { len := t.req.len, seed := t.req.seed, secret := t.req.effectiveSecret t.cfg })
    (hans : t.answer ≠ none → t.ovr ≠ none) : t.Inv where
  memories := hmem
  phase := hok
  err := by
    have hne : t.seq.phase ≠ .err := fun he => by rw [he] at hp; cases hp
    simp [hstatus, State.plainStatus, hne]
  bucket := by rw [hstatus]; rfl
  ovrUsed := by
    have hformat : t.seq.phase ≠ .format := fun he => by rw [he] at hp; cases hp
    have hdone : t.seq.phase ≠ .done := fun he => by rw [he] at hp; cases hp
    simp [hstatus, State.plainStatus, hformat, hdone]
  hexValid := by
    have hdone : t.seq.phase ≠ .done := fun he => by rw [he] at hp; cases hp
    simp [hstatus, State.plainStatus, hdone]
  hex := by rw [hstatus]; exact fun hvalid => nomatch hvalid
  ovr := hovr
  answer := hans

theorem State.Inv.ovr_eq_none (h : s.Inv) (hp : s.seq.phase ≠ .ovrWait) : s.ovr = none :=
  Option.eq_none_iff_forall_ne_some.2 fun o ho => hp (h.ovr o ho).1

theorem State.Inv.answer_eq_none (h : s.Inv) (hovr : s.ovr = none) : s.answer = none :=
  by_contra fun hne => h.answer hne hovr

/-- A step between two such phases can compute: it does not leave OVR_WAIT, and both have a bucket or neither has. -/
def Phase.computesTo (p q : Phase) : Bool :=
  p.beforeResult && q.beforeResult && p != .ovrWait && p.beforeBucket == q.beforeBucket

/-- A step that writes only the lanes, `PRE`, the sequencer and `ESEC` keeps the invariant when the counters fit the new
phase. -/
theorem State.Inv.compute (h : s.Inv) {p : Phase} (hp : s.seq.phase = p) {acc : Vector U64 8} {pre : U64}
    {seq : Sequencer} {esecMem : Memory} (hpq : p.computesTo seq.phase = true) (hesec : esecMem.wf)
    (hok : { s with acc, pre, seq, esecMem }.phaseOk) : { s with acc, pre, seq, esecMem }.Inv := by
  simp only [Phase.computesTo, ← hp, Bool.and_eq_true, bne_iff_ne, beq_iff_eq] at hpq
  obtain ⟨⟨⟨hs, ht⟩, hwait⟩, hbucket⟩ := hpq
  obtain ⟨hin, hsec, -⟩ := h.memories
  have hovr := h.ovr_eq_none hwait
  refine State.inv_of_plainStatus ht ?_ ⟨hin, hsec, hesec⟩ hok (by simp [hovr]) (by simp [h.answer_eq_none hovr])
  rw [State.plainStatus, ← hbucket]
  exact h.status_eq hs

/-- Writing the result of an accepted call, the valid bit of the override unit already set, keeps the invariant. -/
theorem State.deliver_inv (hmem : s.inMem.wf ∧ s.secMem.wf ∧ s.esecMem.wf) (hacc : s.req.accepted = true)
    (hstatus : s.status =
      { err := .none, bucket := some s.req.bucket, ovrUsed := s.req.consultsUnit, hexValid := false })
    (hovr : s.ovr = none) (hans : s.answer = none) (v : U64) : (s.deliver v).Inv := by
  have hafter : (s.req.op = .hash ∧ s.afterResult = .done) ∨ (s.req.op = .hashHex ∧ s.afterResult = .format) := by
    unfold State.afterResult
    cases s.req.op <;> simp
  exact {
    memories := hmem
    phase := by rcases hafter with ⟨hop, hp⟩ | ⟨hop, hp⟩ <;> simp [State.phaseOk, hp, hop, hacc]
    err := by rcases hafter with ⟨hop, hp⟩ | ⟨hop, hp⟩ <;> simp [hstatus, hp]
    bucket := by rcases hafter with ⟨hop, hp⟩ | ⟨hop, hp⟩ <;> simp [hstatus, hp, Phase.beforeBucket]
    ovrUsed := by rcases hafter with ⟨hop, hp⟩ | ⟨hop, hp⟩ <;> simp [hstatus, hp]
    hexValid := by rcases hafter with ⟨hop, hp⟩ | ⟨hop, hp⟩ <;> simp [hstatus, hp, hop]
    hex := by simp [hstatus]
    ovr := by simp [hovr]
    answer := by simp [hans] }

/-! ### The datapath keeps the invariant, phase by phase -/

variable (h : s.Inv)
include h

theorem execCheck_inv (hp : s.seq.phase = .check) (ht : execCheck s = .next t) : t.Inv := by
  rcases execCheck_cases ht with ⟨e, he, rfl⟩ | ⟨hacc, rfl⟩
  · have hovr := h.ovr_eq_none (by simp [hp])
    have hstatus := h.status_eq (by simp [hp, Phase.beforeResult])
    exact {
      memories := h.memories
      phase := trivial
      err := by simp [he]
      bucket := by simp [hstatus, State.plainStatus, hp, Phase.beforeBucket]
      ovrUsed := by simp [hstatus, State.plainStatus]
      hexValid := by simp [hstatus, State.plainStatus]
      hex := by simp [hstatus, State.plainStatus]
      ovr := by simp [hovr]
      answer := by simp [h.answer_eq_none hovr] }
  · exact h.compute hp rfl h.memories.2.2 hacc

theorem execDispatch_inv (hp : s.seq.phase = .dispatch) (ht : execDispatch s = .next t) : t.Inv := by
  have hacc := h.phase
  rw [State.phaseOk, hp] at hacc
  have hovr := h.ovr_eq_none (by simp [hp])
  have hans := h.answer_eq_none hovr
  have hstatus := h.status_eq (by simp [hp, Phase.beforeResult])
  have key {p : Phase} (hresult : p.beforeResult = true) (hbucket : p.beforeBucket = false)
      (hok : (s.goto p).phaseOk) :
      ({ s with status := { s.status with bucket := some s.req.bucket } }.goto p).Inv :=
    State.inv_of_plainStatus hresult (by simp [hstatus, State.plainStatus, hbucket]) h.memories hok
      (by simp [hovr]) (by simp [hans])
  cases ht
  rcases s.dispatchTarget_cases with ⟨hb, hq⟩ | ⟨hb, hmix, hq⟩ | ⟨hb, hmix, hq⟩ <;> rw [hq]
  · exact key rfl rfl ⟨hacc, hb⟩
  · exact key rfl rfl ⟨hacc, hb, hmix⟩
  · cases hen : s.req.ovrEn
    · exact key rfl rfl ⟨hacc, hb, hen⟩
    · exact key rfl rfl ⟨hacc, by simp [Request.consultsUnit, hen, hb]⟩

theorem execShort_inv (hp : s.seq.phase = .short) (ht : execShort s = .next t) : t.Inv := by
  have hok := h.phase
  rw [State.phaseOk, hp] at hok
  obtain ⟨hacc, hb⟩ := hok
  cases (execShort_of_short hb).symm.trans ht
  exact h.compute hp rfl h.memories.2.2
    ⟨hacc, by simp [Request.consultsUnit, hb]⟩

theorem execSeedmix_inv (hp : s.seq.phase = .seedmix) (ht : execSeedmix s = .next t) : t.Inv := by
  have hok := h.phase
  rw [State.phaseOk, hp] at hok
  obtain ⟨hacc, hb, -⟩ := hok
  have hesec := Memory.wf_fill s.esecMem
    (seedMixBytes (s.space (s.req.mixSource s.cfg).space) (s.req.mixSource s.cfg).len s.req.seed) h.memories.2.2
  cases ht
  cases hen : s.req.ovrEn
  · exact h.compute hp rfl hesec ⟨hacc, hb, hen⟩
  · exact h.compute hp rfl hesec
      ⟨hacc, by simp [Request.consultsUnit, hen, hb]⟩

theorem execOvrWait_inv (hp : s.seq.phase = .ovrWait) (ht : execOvrWait s = .next t) : t.Inv := by
  have hok := h.phase
  rw [State.phaseOk, hp] at hok
  obtain ⟨hacc, hunit⟩ := hok
  have hstatus := h.status_eq (by simp [hp, Phase.beforeResult])
  cases ht
  rcases s.overrideCall_cases with ⟨hovr, ht⟩ | ⟨o, v, -, -, ht⟩ | ⟨-, -, ht⟩ <;> rw [ht]
  · exact State.inv_of_plainStatus rfl (by simp [hstatus, State.plainStatus, hp, Phase.beforeBucket]) h.memories
      ⟨hacc, hunit⟩ (by simp) (by simp)
  · exact State.deliver_inv (s := { s with status := { s.status with ovrUsed := true }, ovr := none, answer := none })
      h.memories hacc
      (by simp [hstatus, State.plainStatus, hp, Phase.beforeBucket, hunit]) rfl rfl v
  · exact h

theorem execAccInit_inv (hp : s.seq.phase = .accInit) (ht : execAccInit s = .next t) : t.Inv := by
  have hok := h.phase
  rw [State.phaseOk, hp] at hok
  obtain ⟨hacc, hb, hen⟩ := hok
  have key {p : Phase} (hpq : Phase.accInit.computesTo p = true)
      (hok : { s with acc := initialLanes, seq := ⟨p, 0, 0⟩ }.phaseOk) :
      { s with acc := initialLanes, seq := ⟨p, 0, 0⟩ }.Inv :=
    h.compute hp hpq h.memories.2.2 hok
  cases ht
  split
  · exact key rfl ⟨hacc, hb, hen, ‹_›, State.nspb_pos hacc⟩
  · have hblk : s.geometry.nblk = 0 := by omega
    exact key rfl ⟨hacc, hb, hen, hblk.symm, State.nst_pos hb hblk⟩

theorem execStripe_inv (hp : s.seq.phase = .stripe) (ht : execStripe s = .next t) : t.Inv := by
  have hok := h.phase
  rw [State.phaseOk, hp] at hok
  obtain ⟨hacc, hb, hen, hblk, hstr⟩ := hok
  unfold execStripe at ht
  dsimp only at ht
  split at ht <;> cases ht
  · rename_i hnext
    exact h.compute hp rfl h.memories.2.2
      ⟨hacc, hb, hen, hblk, (toNat_add_one hstr s.nspb_lt).trans_lt hnext⟩
  · exact h.compute hp rfl h.memories.2.2
      ⟨hacc, hb, hen, hblk, rfl⟩

theorem execScramble_inv (hp : s.seq.phase = .scramble) (ht : execScramble s = .next t) : t.Inv := by
  have hok := h.phase
  rw [State.phaseOk, hp] at hok
  obtain ⟨hacc, hb, hen, hblk, hstr⟩ := hok
  have key {p : Phase} (hpq : Phase.scramble.computesTo p = true) {acc : Vector U64 8}
      (hok : { s with acc, seq := { s.seq with phase := p, blk := s.seq.blk + 1 } }.phaseOk) :
      { s with acc, seq := { s.seq with phase := p, blk := s.seq.blk + 1 } }.Inv :=
    h.compute hp hpq h.memories.2.2 hok
  have hstr' : s.seq.str.toNat = 0 := by rw [hstr]; rfl
  have hadd : (s.seq.blk + 1).toNat = s.seq.blk.toNat + 1 := toNat_add_one hblk s.nblk_lt
  cases ht
  dsimp only
  split
  · rename_i hnext
    exact key rfl ⟨hacc, hb, hen, hadd.trans_lt hnext, hstr' ▸ State.nspb_pos hacc⟩
  · split
    · have hlast : s.seq.blk.toNat + 1 = s.geometry.nblk := by omega
      exact key rfl ⟨hacc, hb, hen, hadd.trans hlast, hstr' ▸ ‹_›⟩
    · exact key rfl ⟨hacc, hb, hen⟩

theorem execTail_inv (hp : s.seq.phase = .tail) (ht : execTail s = .next t) : t.Inv := by
  have hok := h.phase
  rw [State.phaseOk, hp] at hok
  obtain ⟨hacc, hb, hen, hblk, hstr⟩ := hok
  unfold execTail at ht
  dsimp only at ht
  split at ht <;> cases ht
  · rename_i hnext
    exact h.compute hp rfl h.memories.2.2
      ⟨hacc, hb, hen, hblk, (toNat_add_one hstr s.nst_lt).trans_lt hnext⟩
  · exact h.compute hp rfl h.memories.2.2 ⟨hacc, hb, hen⟩

theorem execLast_inv (hp : s.seq.phase = .last) (ht : execLast s = .next t) : t.Inv := by
  have hok := h.phase
  rw [State.phaseOk, hp] at hok
  cases ht
  exact h.compute hp rfl h.memories.2.2 hok

theorem execMerge_inv (hp : s.seq.phase = .merge) (ht : execMerge s = .next t) : t.Inv := by
  have hok := h.phase
  rw [State.phaseOk, hp] at hok
  obtain ⟨hacc, hb, hen⟩ := hok
  cases ht
  exact h.compute hp rfl h.memories.2.2
    ⟨hacc, by simp [Request.consultsUnit, hen]⟩

theorem execFinal_inv (hp : s.seq.phase = .final) (ht : execFinal s = .next t) : t.Inv := by
  have hok := h.phase
  rw [State.phaseOk, hp] at hok
  obtain ⟨hacc, hunit⟩ := hok
  have hovr := h.ovr_eq_none (by simp [hp])
  have hstatus := h.status_eq (by simp [hp, Phase.beforeResult])
  cases (execFinal_of_not_consulted hunit).symm.trans ht
  exact State.deliver_inv h.memories hacc (by simp [hstatus, State.plainStatus, hp, Phase.beforeBucket, hunit]) hovr
    (h.answer_eq_none hovr) _

theorem execFormat_inv (hp : s.seq.phase = .format) (ht : execFormat s = .next t) : t.Inv := by
  have hok := h.phase
  rw [State.phaseOk, hp] at hok
  obtain ⟨hacc, hop⟩ := hok
  have hovr := h.ovr_eq_none (by simp [hp])
  have herr : s.status.err = .none := by_contra fun hne => by simpa [hp] using h.err.1 hne
  have hused : s.status.ovrUsed = true ↔ s.req.consultsUnit = true := by simpa [hp] using h.ovrUsed
  have hbucket := h.bucket
  rw [hp] at hbucket
  cases ht
  exact {
    memories := h.memories
    phase := hacc
    err := by simp [herr]
    bucket := hbucket
    ovrUsed := by simp [hused]
    hexValid := by simp [hop]
    hex := fun _ => rfl
    ovr := by simp [hovr]
    answer := by simp [h.answer_eq_none hovr] }

/-- The operation of the sequencer's phase keeps the invariant. -/
theorem exec_phase_inv (ht : exec s.seq.phase.instr s = .next t) : t.Inv := by
  cases hp : s.seq.phase <;> rw [hp] at ht
  case check => exact execCheck_inv h hp ht
  case dispatch => exact execDispatch_inv h hp ht
  case short => exact execShort_inv h hp ht
  case seedmix => exact execSeedmix_inv h hp ht
  case ovrWait => exact execOvrWait_inv h hp ht
  case accInit => exact execAccInit_inv h hp ht
  case stripe => exact execStripe_inv h hp ht
  case scramble => exact execScramble_inv h hp ht
  case tail => exact execTail_inv h hp ht
  case last => exact execLast_inv h hp ht
  case merge => exact execMerge_inv h hp ht
  case final => exact execFinal_inv h hp ht
  case format => exact execFormat_inv h hp ht
  case idle | done | err => cases ht; exact h

/-! ### The outside world keeps the invariant -/

theorem State.Inv.startCall (hbusy : s.seq.phase.busy = false) (c : CmdReg) :
    (State.startCall { s with cmd := c }).Inv := by
  have hovr := h.ovr_eq_none fun hp => by rw [hp] at hbusy; cases hbusy
  exact State.inv_of_plainStatus rfl rfl h.memories trivial (by simp [hovr]) (by simp [h.answer_eq_none hovr])

/-- What a host move writes but for `IN`, `SEC` and a command is no part of the invariant. -/
theorem State.Inv.hostSide {seed len secretLen rdata : U64} {inMem secMem : Memory} {draws : Nat} {inputs : List Input}
    (hin : inMem.wf) (hsec : secMem.wf) :
    { s with seed, len, secretLen, inMem, secMem, rdata, draws, inputs }.Inv := by
  obtain ⟨⟨-, -, hesec⟩, hphase, herr, hbucket, hused, hvalid, hhex, hovr, hans⟩ := h
  exact ⟨⟨hin, hsec, hesec⟩, hphase, herr, hbucket, hused, hvalid, hhex, hovr, hans⟩

theorem hostWrite_inv {v : U64} {r : Reg} (ht : s.hostWrite v r = .next t) : t.Inv := by
  obtain ⟨hin, hsec, -⟩ := h.memories
  rcases s.hostWrite_cases t v r ht with rfl | rfl | rfl | rfl | ⟨-, hbusy, rfl⟩
  · exact h
  case inr.inr.inr.inr => exact h.startCall hbusy _
  all_goals exact h.hostSide hin hsec

theorem hostRead_inv (r : Reg) (v : U64) : { (s.hostRead r).2 with rdata := v }.Inv := by
  obtain ⟨hin, hsec, -⟩ := h.memories
  rcases s.hostRead_state r with hr | hr <;> rw [hr] <;> exact h.hostSide hin hsec

theorem access_inv {w : BitVec 72} (ht : runCode (accessCode w) s = .next t) : t.Inv := by
  cases hd : decode (accessCode w) with
  | error e => cases (runCode_of_decode_error hd s).symm.trans ht
  | ok i =>
    rw [runCode_of_decode hd] at ht
    rw [decode_accessCode] at hd
    rcases exec_of_decodeHostacc hd s with ⟨_, r, v, -, -, hx⟩ | ⟨r, hx⟩
    · exact hostWrite_inv h (hx.symm.trans ht)
    · cases hx.symm.trans ht
      exact hostRead_inv h r _

theorem unitAnswers_inv {v : U64} (ht : unitAnswers v s = .next t) : t.Inv := by
  unfold unitAnswers at ht
  split at ht <;> cases ht
  · rename_i hasked
    have hovr : s.ovr ≠ none := fun hnone => by simp [hnone] at hasked
    obtain ⟨hmem, hphase, herr, hbucket, hused, hvalid, hhex, hreq, -⟩ := h
    exact ⟨hmem, hphase, herr, hbucket, hused, hvalid, hhex, hreq, fun _ => hovr⟩
  · exact h

/-- Every move of the outside world keeps the invariant. -/
theorem deliverInput_inv {i : Input} (ht : deliverInput i s = .next t) : t.Inv := by
  obtain ⟨hin, hsec, -⟩ := h.memories
  cases i <;> simp only [deliverInput] at ht
  case datapath => exact exec_phase_inv h ((runCode_phaseCode s s).symm.trans ht)
  case access w => exact access_inv h ht
  case command w =>
    rcases s.commandWrite_cases t _ ((runCode_commandCode w s).symm.trans ht) with ⟨-, rfl⟩ | ⟨hbusy, -, rfl⟩
    · exact h
    · exact h.startCall hbusy _
  case writeNarrow offset width v =>
    by_cases ho : offset.toNat < 0x40
    · rw [writeNarrow_in_window _ _ _ _ ho] at ht
      exact hostWrite_inv h ht
    · cases (writeNarrow_past_window offset width v s (by omega)).symm.trans ht
  case readByte offset =>
    cases ht
    exact hostRead_inv h _ _
  case ldin bytes =>
    rcases loadInput_cases bytes s with ⟨-, hl⟩ | ⟨-, hl⟩ <;> cases hl.symm.trans ht
    exact h.hostSide (Memory.wf_fill _ _ hin) hsec
  case ldsec bytes =>
    rcases loadSecret_cases bytes s with ⟨-, hl⟩ | ⟨-, ⟨-, hl⟩ | ⟨-, hl⟩⟩ <;> cases hl.symm.trans ht
    exact h.hostSide hin (Memory.wf_fill _ _ hsec)
  case poll =>
    obtain ⟨moves, hp, -⟩ := poll_cases s
    cases hp.symm.trans ht
    exact h.hostSide hin hsec
  case answer v => exact unitAnswers_inv h ht
  case reset =>
    cases ht
    exact State.inv_of_plainStatus rfl rfl ⟨Memory.wf_nil, Memory.wf_nil, Memory.wf_nil⟩ trivial
      (fun _ ho => nomatch ho) (fun ha => absurd rfl ha)

end Invariant

end Sys2Proof.Machine
end

section
/-! PROOFS. The invariant. -/

namespace Sys2Proof.Proofs

open Sys2Proof.Machine

/-- Settles O56: the step is the phase's operation or a move of the outside world, and each keeps the invariant. -/
theorem stepKeepsInvariant : Obligations.StepKeepsInvariant := by
  intro s t h ht
  cases hi : s.inputs with
  | nil => exact exec_phase_inv h ((step_of_no_inputs s hi).symm.trans ht)
  | cons i rest =>
    obtain ⟨hin, hsec, -⟩ := h.memories
    have hrest : { s with inputs := rest }.Inv := h.hostSide hin hsec
    exact deliverInput_inv hrest ((step_of_input s i rest hi).symm.trans ht)

end Sys2Proof.Proofs
end

section
/-! SUPPORT. A whole call as a function: which bytes it reads, and the secrets it works with (`40_dispatch.md` rule R83,
`43_seedmixer.md` rule R127). -/

namespace Sys2Proof.Machine

/-! ### The long path reads the input and the effective secret -/

section Long

variable {inp inp' sec sec' : Bytes} {len secretLen : Nat}

theorem stripes_congr {base count : Nat} (hi : AgreeBelow len inp inp') (hs : AgreeBelow secretLen sec sec')
    (hin : ∀ j, j < count → base + stripeLen * j + 64 ≤ len)
    (hsec : ∀ j, j < count → secretConsume * j + 64 ≤ secretLen) (acc : Vector U64 8) :
    stripes inp sec base count acc = stripes inp' sec' base count acc := by
  refine List.foldl_ext _ _ _ fun a j hj => ?_
  have hin := hin j (List.mem_range.1 hj)
  have hsec := hsec j (List.mem_range.1 hj)
  exact accumulate_congr _ _ _ _ _ _ _ (fun k _ hk => hi k (by omega)) fun k _ hk => hs k (by omega)

theorem blocks_congr {count : Nat} (hi : AgreeBelow len inp inp') (hs : AgreeBelow secretLen sec sec')
    (hsecret : 64 ≤ secretLen) (hcount : count ≤ (geometry len secretLen).nblk) (acc : Vector U64 8) :
    blocks inp sec secretLen (geometry len secretLen) count acc =
      blocks inp' sec' secretLen (geometry len secretLen) count acc := by
  refine List.foldl_ext _ _ _ fun a b hb => ?_
  have hblk := (List.mem_range.1 hb).trans_le hcount
  rw [scrambleLanes_congr hs hsecret,
    stripes_congr hi hs (fun _ hj => stripe_within_input hblk hj) fun _ hj => stripe_within_secret hj]

theorem longPre_congr {len : U64} (hi : AgreeBelow len.toNat inp inp') (hs : AgreeBelow secretLen sec sec')
    (hlen : 64 ≤ len.toNat) (hsecret : 136 ≤ secretLen) :
    longPre inp sec len secretLen = longPre inp' sec' len secretLen := by
  have hnst := geometry_nst_le_nspb (len := len.toNat) (secretLen := secretLen) (by omega)
  have hlanes : longLanes inp sec len secretLen = longLanes inp' sec' len secretLen := by
    unfold longLanes
    dsimp only
    rw [blocks_congr hi hs (by omega) le_rfl,
      stripes_congr hi hs (fun _ hj => tail_within_input hj) fun _ hj => stripe_within_secret (hj.trans_le hnst)]
    exact accumulate_congr _ _ _ _ _ _ _ (fun k _ hk => hi k (by omega)) fun k _ hk => hs k (by omega)
  rw [longPre, longPre, hlanes, mergeLanes_congr hs (by omega)]

end Long

/-! ### The secrets of a call as bytes -/

theorem State.space_secretInUse (s : State) (r : Request) :
    s.space r.secretInUse.space = viewBytes s.secMem.read r.secretInUse := by
  unfold Request.secretInUse
  split <;> rfl

theorem State.space_shortSecret (s : State) (r : Request) :
    s.space r.shortSecret.space = viewBytes s.secMem.read r.shortSecret := by
  unfold Request.shortSecret
  split
  · exact s.space_secretInUse r
  · rfl

theorem State.space_mixSource (s : State) (cfg : Config) (r : Request) :
    s.space (r.mixSource cfg).space = viewBytes s.secMem.read (r.mixSource cfg) := by
  unfold Request.mixSource
  split
  · rfl
  · exact s.space_secretInUse r

section Request

variable {cfg : Config} {r : Request} {inp inp' sec sec' : Bytes}

theorem secretInUse_agree (hs : r.secretEn = true → AgreeBelow r.secretLen.toNat sec sec') :
    AgreeBelow r.secretInUse.len (viewBytes sec r.secretInUse) (viewBytes sec' r.secretInUse) := by
  unfold Request.secretInUse
  split
  · exact hs ‹_›
  · exact .refl _ _

theorem shortSecret_agree (hacc : r.accepted = true)
    (hs : r.secretEn = true → AgreeBelow r.secretLen.toNat sec sec') :
    AgreeBelow 136 (viewBytes sec r.shortSecret) (viewBytes sec' r.shortSecret) := by
  unfold Request.shortSecret
  split
  · exact (secretInUse_agree hs).mono (r.le_len_secretInUse hacc)
  · exact .refl _ _

theorem mixSource_agree (hs : r.secretEn = true → AgreeBelow r.secretLen.toNat sec sec') :
    AgreeBelow (r.mixSource cfg).len (viewBytes sec (r.mixSource cfg)) (viewBytes sec' (r.mixSource cfg)) := by
  unfold Request.mixSource
  split
  · exact .refl _ _
  · exact secretInUse_agree hs

theorem effectiveBytes_agree (hs : r.secretEn = true → AgreeBelow r.secretLen.toNat sec sec') :
    AgreeBelow (r.effectiveSecret cfg).len (effectiveBytes cfg sec r) (effectiveBytes cfg sec' r) := by
  unfold Request.effectiveSecret effectiveBytes
  dsimp only
  rw [seedMixBytes_congr (mixSource_agree hs)]
  split
  · exact .refl _ _
  · exact secretInUse_agree hs

/-! ### The result of a call -/

theorem Request.shortPre_congr (hi : AgreeBelow r.len.toNat inp inp') (hs : AgreeBelow 136 sec sec') :
    r.shortPre inp sec = r.shortPre inp' sec' := by
  unfold Request.shortPre
  cases hb : r.bucket <;> have hlen := Request.bucket_covers hb
  case len0 => exact pre0_congr hs
  case len1_3 => exact pre1_3_congr hi hs hlen.1
  case len4_8 => exact pre4_8_congr hi hs hlen.1
  case len9_16 => exact pre9_16_congr hi hs hlen.1
  case len17_128 => exact pre17_128_congr hi hs hlen.1 hlen.2
  case len129_240 => exact pre129_240_congr hi hs hlen.1 hlen.2
  case long => rfl

theorem callResult_of_short (h : r.bucket ≠ .long) :
    callResult cfg inp sec r = r.mixer.apply (r.shortPre inp (viewBytes sec r.shortSecret)) r.len := by
  unfold callResult Request.mixer Request.shortPre
  cases hb : r.bucket
  case long => exact absurd hb h
  all_goals rfl

theorem callResult_of_long (h : r.bucket = .long) :
    callResult cfg inp sec r =
      aval3 (longPre inp (effectiveBytes cfg sec r) r.len (r.effectiveSecret cfg).len) := by
  unfold callResult
  rw [h]

/-- The result of an accepted call is a function of the input bytes and of the custom secret's bytes in use. -/
theorem callResult_congr (hacc : r.accepted = true) (hi : AgreeBelow r.len.toNat inp inp')
    (hs : r.secretEn = true → AgreeBelow r.secretLen.toNat sec sec') :
    callResult cfg inp sec r = callResult cfg inp' sec' r := by
  by_cases hb : r.bucket = .long
  · have hlen : 241 ≤ r.len.toNat := Request.bucket_covers hb
    rw [callResult_of_long hb, callResult_of_long hb,
      longPre_congr hi (effectiveBytes_agree hs) (by omega) (r.le_len_effectiveSecret hacc cfg)]
  · rw [callResult_of_short hb, callResult_of_short hb, Request.shortPre_congr hi (shortSecret_agree hacc hs)]

/-- Without a custom secret its length does not matter. -/
theorem callResult_of_no_secret (h : r.secretEn = false) (n : U64) :
    callResult cfg inp sec { r with secretLen := n } = callResult cfg inp sec r := by
  simp [callResult, effectiveBytes, Request.bucket, Request.shortSecret, Request.effectiveSecret, Request.mix,
    Request.mixSource, Request.secretInUse, h]

end Request

/-! ### The derived secret in `ESEC` -/

/-- The secret a long call reads is `E` (`43_seedmixer.md` rule R127). -/
def State.SecretDerived (s : State) : Prop :=
  AgreeBelow s.effectiveLen s.effectiveSecret (effectiveBytes s.cfg s.secMem.read s.req)

theorem State.secretDerived_of_not_mix {s : State} (h : s.req.mix s.cfg = false) : s.SecretDerived := by
  have hview : s.req.effectiveSecret s.cfg = s.req.secretInUse := if_neg (by simp [h])
  have hbytes : effectiveBytes s.cfg s.secMem.read s.req = viewBytes s.secMem.read s.req.secretInUse :=
    if_neg (by simp [h])
  rw [State.SecretDerived, State.effectiveSecret, hview, hbytes, s.space_secretInUse]
  exact .refl _ _

/-- SEEDMIX puts `E` into `ESEC`. -/
theorem State.secretDerived_of_mix {s : State} (h : s.req.mix s.cfg = true) {m : Memory}
    (hesec : s.esecMem =
      m.fill
        (seedMixBytes (viewBytes s.secMem.read (s.req.mixSource s.cfg)) (s.req.mixSource s.cfg).len s.req.seed)) :
    s.SecretDerived := by
  have hview : s.req.effectiveSecret s.cfg = { space := .esec, len := (s.req.mixSource s.cfg).len } := if_pos h
  have hbytes : effectiveBytes s.cfg s.secMem.read s.req = fun k =>
      (seedMixBytes (viewBytes s.secMem.read (s.req.mixSource s.cfg)) (s.req.mixSource s.cfg).len s.req.seed).getD
        k 0 := if_pos h
  rw [State.SecretDerived, State.effectiveLen, State.effectiveSecret, hview, hbytes]
  intro k hk
  rw [State.space, hesec, Memory.read_fill, seedMixBytes_length, if_pos hk]

end Sys2Proof.Machine
end

section
/-! SUPPORT. Runs of the datapath alone: the loops of a long call, and a call without the override unit from CHECK to
DONE (`40_dispatch.md` rule R84). -/

namespace Sys2Proof.Machine

/-! ### The datapath as a function -/

/-- The state after the datapath's next operation, which always goes on. -/
def State.datapath (s : State) : State :=
  match exec s.seq.phase.instr s with
  | .next t => t
  | .fault _ | .refused _ => s

theorem exec_phase_eq_datapath (s : State) : exec s.seq.phase.instr s = .next s.datapath := by
  obtain ⟨t, ht⟩ := s.seq.phase.exec_instr_next s
  simp only [State.datapath, ht]

theorem State.datapath_eq {s t : State} {p : Phase} (hp : s.seq.phase = p) (h : exec p.instr s = .next t) :
    s.datapath = t := by
  subst hp
  exact Host.Outcome.next.inj ((exec_phase_eq_datapath s).symm.trans h)

theorem iterate_datapath_add {s t : State} {n : Nat} (h : State.datapath^[n] s = t) (m : Nat) :
    State.datapath^[n + m] s = State.datapath^[m] t := by
  rw [Nat.add_comm, Function.iterate_add_apply, h]

/-! ### The loops of a long call -/

/-- `s` in phase `p` of the block and stripe loops, the counters and the lanes as given. -/
def State.looping (s : State) (p : Phase) (blk str : Nat) (acc : Vector U64 8) : State :=
  { s with acc, seq := { phase := p, blk := BitVec.ofNat 64 blk, str := BitVec.ofNat 64 str } }

section Loops

variable (s : State) {blk str : Nat} (acc : Vector U64 8)

/-- Where the loops go once `n` blocks are consumed. -/
def State.phaseAfterBlocks (n : Nat) : Phase :=
  if n < s.geometry.nblk then .stripe else if 0 < s.geometry.nst then .tail else .last

theorem toNat_ofNat_of_lt {n : Nat} (h : n < 2 ^ 64) : (BitVec.ofNat 64 n).toNat = n :=
  (BitVec.toNat_ofNat _ _).trans (Nat.mod_eq_of_lt h)

theorem ofNat_add_one (n : Nat) : BitVec.ofNat 64 n + 1 = BitVec.ofNat 64 (n + 1) := (BitVec.ofNat_add n 1).symm

theorem datapath_stripe (hblk : blk < s.geometry.nblk) (hstr : str < s.geometry.nspb) :
    (s.looping .stripe blk str acc).datapath =
      if str + 1 < s.geometry.nspb then
        s.looping .stripe blk (str + 1)
          (accumulate s.input s.effectiveSecret (blk * s.geometry.blkLen + stripeLen * str) (secretConsume * str) acc)
      else
        s.looping .scramble blk 0
          (accumulate s.input s.effectiveSecret (blk * s.geometry.blkLen + stripeLen * str) (secretConsume * str)
            acc) := by
  have hb := toNat_ofNat_of_lt (hblk.trans s.nblk_lt)
  have hs := toNat_ofNat_of_lt (hstr.trans s.nspb_lt)
  refine State.datapath_eq (p := .stripe) rfl ?_
  have h : (s.looping .stripe blk str acc).seq = ⟨.stripe, BitVec.ofNat 64 blk, BitVec.ofNat 64 str⟩ := rfl
  have hg : (s.looping .stripe blk str acc).geometry = s.geometry := rfl
  simp only [Phase.instr, exec, execStripe, h, hg, hb, hs, ofNat_add_one]
  split <;> rfl

theorem datapath_scramble (hblk : blk < s.geometry.nblk) :
    (s.looping .scramble blk 0 acc).datapath =
      s.looping (s.phaseAfterBlocks (blk + 1)) (blk + 1) 0 (scrambleLanes s.effectiveSecret s.effectiveLen acc) := by
  have hb := toNat_ofNat_of_lt (hblk.trans s.nblk_lt)
  refine State.datapath_eq (p := .scramble) rfl ?_
  have h : (s.looping .scramble blk 0 acc).seq = ⟨.scramble, BitVec.ofNat 64 blk, BitVec.ofNat 64 0⟩ := rfl
  simp only [Phase.instr, exec, execScramble, h, hb, ofNat_add_one]
  rfl

theorem datapath_tail (hstr : str < s.geometry.nst) :
    (s.looping .tail blk str acc).datapath =
      if str + 1 < s.geometry.nst then
        s.looping .tail blk (str + 1)
          (accumulate s.input s.effectiveSecret (s.geometry.nblk * s.geometry.blkLen + stripeLen * str)
            (secretConsume * str) acc)
      else
        s.looping .last blk str
          (accumulate s.input s.effectiveSecret (s.geometry.nblk * s.geometry.blkLen + stripeLen * str)
            (secretConsume * str) acc) := by
  have hs := toNat_ofNat_of_lt (hstr.trans s.nst_lt)
  refine State.datapath_eq (p := .tail) rfl ?_
  have h : (s.looping .tail blk str acc).seq = ⟨.tail, BitVec.ofNat 64 blk, BitVec.ofNat 64 str⟩ := rfl
  have hg : (s.looping .tail blk str acc).geometry = s.geometry := rfl
  simp only [Phase.instr, exec, execTail, h, hg, hs, ofNat_add_one]
  split <;> rfl

/-- The first stripes of a block. -/
theorem iterate_stripe (hblk : blk < s.geometry.nblk) (n : Nat) (hn : n < s.geometry.nspb) :
    State.datapath^[n] (s.looping .stripe blk 0 acc) =
      s.looping .stripe blk n (stripes s.input s.effectiveSecret (blk * s.geometry.blkLen) n acc) := by
  induction n with
  | zero => rfl
  | succ n ih =>
    rw [Function.iterate_succ_apply', ih (by omega), datapath_stripe s _ hblk (by omega), if_pos hn, stripes_succ]

/-- A whole block: its stripes and the scramble. -/
theorem iterate_block (hblk : blk < s.geometry.nblk) (hnspb : 0 < s.geometry.nspb) :
    State.datapath^[s.geometry.nspb + 1] (s.looping .stripe blk 0 acc) =
      s.looping (s.phaseAfterBlocks (blk + 1)) (blk + 1) 0
        (scrambleLanes s.effectiveSecret s.effectiveLen
          (stripes s.input s.effectiveSecret (blk * s.geometry.blkLen) s.geometry.nspb acc)) := by
  obtain ⟨n, hn⟩ : ∃ n, s.geometry.nspb = n + 1 := ⟨_, (Nat.succ_pred_eq_of_pos hnspb).symm⟩
  rw [Function.iterate_succ_apply', hn, Function.iterate_succ_apply', iterate_stripe s acc hblk n (by omega),
    datapath_stripe s _ hblk (by omega), if_neg (by omega), datapath_scramble s _ hblk, stripes_succ]

/-- The first `n` blocks. -/
theorem iterate_blocks (hnspb : 0 < s.geometry.nspb) (n : Nat) (hn : n ≤ s.geometry.nblk) :
    State.datapath^[n * (s.geometry.nspb + 1)] (s.looping (s.phaseAfterBlocks 0) 0 0 acc) =
      s.looping (s.phaseAfterBlocks n) n 0
        (blocks s.input s.effectiveSecret s.effectiveLen s.geometry n acc) := by
  induction n with
  | zero => rw [Nat.zero_mul]; rfl
  | succ n ih =>
    have hstripe : s.phaseAfterBlocks n = .stripe := if_pos hn
    rw [Nat.succ_mul, iterate_datapath_add (ih (by omega)), hstripe, iterate_block s _ hn hnspb, blocks_succ]

/-- The first stripes of the tail. -/
theorem iterate_tail (n : Nat) (hn : n < s.geometry.nst) :
    State.datapath^[n] (s.looping .tail blk 0 acc) =
      s.looping .tail blk n
        (stripes s.input s.effectiveSecret (s.geometry.nblk * s.geometry.blkLen) n acc) := by
  induction n with
  | zero => rfl
  | succ n ih => rw [Function.iterate_succ_apply', ih (by omega), datapath_tail s _ (by omega), if_pos hn, stripes_succ]

/-- What is left after the whole blocks: the tail's stripes, none perhaps. -/
theorem iterate_rest :
    State.datapath^[s.geometry.nst]
        (s.looping (s.phaseAfterBlocks s.geometry.nblk) s.geometry.nblk 0 acc) =
      s.looping .last s.geometry.nblk (s.geometry.nst - 1)
        (stripes s.input s.effectiveSecret (s.geometry.nblk * s.geometry.blkLen) s.geometry.nst acc) := by
  rw [State.phaseAfterBlocks, if_neg (Nat.lt_irrefl _)]
  cases hnst : s.geometry.nst with
  | zero => rfl
  | succ n =>
    rw [if_pos (Nat.succ_pos n), Function.iterate_succ_apply', iterate_tail s acc n (by omega),
      datapath_tail s _ (by omega), if_neg (by omega), stripes_succ, Nat.add_sub_cancel]

end Loops

/-! ### The long path -/

/-- The lanes and `PRE` of the long path, from the effective secret in place. -/
def State.longLanes (s : State) : Vector U64 8 := Machine.longLanes s.input s.effectiveSecret s.req.len s.effectiveLen

/-- `s` when the long path has handed `PRE` to the final mixer. -/
def State.longMerged (s : State) : State :=
  (s.looping .merge s.geometry.nblk (s.geometry.nst - 1) s.longLanes).handOver
    (mergeLanes s.effectiveSecret s.req.len s.longLanes)

theorem Request.mixer_of_long {r : Request} (hb : r.bucket = .long) (hen : r.ovrEn = false) : r.mixer = .aval3 := by
  simp [Request.mixer, hb, hen]

theorem datapath_accInit {s : State} (hp : s.seq.phase = .accInit) (hb : s.req.bucket = .long) :
    s.datapath = s.looping (s.phaseAfterBlocks 0) 0 0 initialLanes := by
  have hphase : (if 0 < s.geometry.nblk then Phase.stripe else .tail) = s.phaseAfterBlocks 0 := by
    unfold State.phaseAfterBlocks
    split
    · rfl
    · rw [if_pos (State.nst_pos hb (by omega))]
  refine State.datapath_eq hp ?_
  rw [← hphase]
  rfl

theorem datapath_last (s : State) (blk str : Nat) (acc : Vector U64 8) :
    (s.looping .last blk str acc).datapath =
      s.looping .merge blk str
        (accumulate s.input s.effectiveSecret (s.req.len.toNat - 64) (s.effectiveLen - 71) acc) :=
  State.datapath_eq (p := .last) rfl rfl

theorem datapath_merge (s : State) (blk str : Nat) (acc : Vector U64 8) :
    (s.looping .merge blk str acc).datapath =
      (s.looping .merge blk str acc).handOver (mergeLanes s.effectiveSecret s.req.len acc) :=
  State.datapath_eq (p := .merge) rfl rfl

theorem datapath_final {s : State} (hp : s.seq.phase = .final) (hunit : s.req.consultsUnit = false) :
    s.datapath = s.deliver (s.req.mixer.apply s.pre s.req.len) :=
  State.datapath_eq hp (execFinal_of_not_consulted hunit)

/-- From ACC_INIT the datapath runs the long path in the steps R84 counts. -/
theorem iterate_long {s : State} (hp : s.seq.phase = .accInit) (hacc : s.req.accepted = true)
    (hb : s.req.bucket = .long) (hen : s.req.ovrEn = false) :
    State.datapath^[s.geometry.nblk * (s.geometry.nspb + 1) + s.geometry.nst + 4] s =
      s.longMerged.deliver (aval3 s.longMerged.pre) := by
  have hunit : s.req.consultsUnit = false := by simp [Request.consultsUnit, hen]
  have hrest := iterate_datapath_add (iterate_blocks s initialLanes (State.nspb_pos hacc) _ le_rfl) s.geometry.nst
  rw [iterate_rest] at hrest
  have hmixer : s.longMerged.req.mixer = .aval3 := Request.mixer_of_long hb hen
  calc State.datapath^[s.geometry.nblk * (s.geometry.nspb + 1) + s.geometry.nst + 4] s
    _ = State.datapath^[s.geometry.nblk * (s.geometry.nspb + 1) + s.geometry.nst + 3]
          (s.looping (s.phaseAfterBlocks 0) 0 0 initialLanes) := by
        rw [Function.iterate_succ_apply, datapath_accInit hp hb]
    _ = (s.looping .last s.geometry.nblk (s.geometry.nst - 1) _).datapath.datapath.datapath :=
        iterate_datapath_add hrest 3
    _ = s.longMerged.datapath := by
        rw [datapath_last]
        exact congrArg _ (datapath_merge s _ _ _)
    _ = s.longMerged.deliver (aval3 s.longMerged.pre) := by
        rw [datapath_final (s := s.longMerged) rfl hunit, hmixer]
        rfl

theorem State.aval3_longMerged_pre {s : State} (hacc : s.req.accepted = true) (hb : s.req.bucket = .long)
    (hderived : s.SecretDerived) :
    aval3 s.longMerged.pre = callResult s.cfg s.inMem.read s.secMem.read s.req := by
  have hlen : 241 ≤ s.req.len.toNat := Request.bucket_covers hb
  have hpre : s.longMerged.pre =
      longPre s.inMem.read (effectiveBytes s.cfg s.secMem.read s.req) s.req.len s.effectiveLen :=
    longPre_congr (.refl _ _) hderived (by omega) (s.req.le_len_effectiveSecret hacc s.cfg)
  rw [callResult_of_long hb, hpre]
  rfl

/-! ### A call without the override unit -/

/-- The state in which a call that writes `v` into `RESULT` ends. -/
def State.finished (s : State) (v : U64) : State :=
  match s.req.op with
  | .hash => s.deliver v
  | .hashHex => { s.deliver v with hex := hexFmt v, status := { s.status with hexValid := true } }.goto .done

@[simp] theorem State.finished_phase (s : State) (v : U64) : (s.finished v).seq.phase = .done := by
  unfold State.finished
  cases hop : s.req.op
  · exact afterResult_hash s hop
  · rfl

@[simp] theorem State.finished_result (s : State) (v : U64) : (s.finished v).result = v := by
  unfold State.finished
  cases s.req.op <;> rfl

@[simp] theorem State.finished_status (s : State) (v : U64) :
    (s.finished v).status =
      { s.status with hexValid := if s.req.op = .hashHex then true else s.status.hexValid } := by
  unfold State.finished
  cases s.req.op <;> rfl

theorem State.finished_of_hashHex {s : State} (hop : s.req.op = .hashHex) (v : U64) :
    (s.finished v).status.hexValid = true ∧ (s.finished v).hex = hexFmt v := by
  simp [State.finished, hop]

/-- Once the result is written the call ends, after FORMAT at the latest. -/
theorem exists_finished (s : State) (v : U64) : ∃ n, n ≤ 1 ∧ State.datapath^[n] (s.deliver v) = s.finished v := by
  unfold State.finished
  cases hop : s.req.op
  · exact ⟨0, by decide, rfl⟩
  · exact ⟨1, le_rfl, State.datapath_eq (p := .format) (afterResult_hashHex s hop) rfl⟩

section Call

variable {s : State} (hp : s.seq.phase = .check) (hacc : s.req.accepted = true)

/-- `s` as the dispatcher leaves it. -/
def State.dispatched (s : State) : State :=
  { s with status := { s.status with bucket := some s.req.bucket } }.goto s.dispatchTarget

/-- `s` as SEEDMIX leaves it. -/
def State.mixed (s : State) : State :=
  { s with
    esecMem :=
      s.esecMem.fill
        (seedMixBytes (s.space (s.req.mixSource s.cfg).space) (s.req.mixSource s.cfg).len s.req.seed) }.goto
    (if s.req.ovrEn then .ovrWait else .accInit)

include hp hacc

theorem iterate_check : State.datapath^[2] s = s.dispatched := by
  have hcheck : s.datapath = s.goto .dispatch := State.datapath_eq hp (execCheck_of_accepted hacc)
  rw [Function.iterate_succ_apply, hcheck]
  exact State.datapath_eq (s := s.goto .dispatch) (p := .dispatch) rfl rfl

theorem exists_result_of_short (hb : s.req.bucket ≠ .long) :
    ∃ u : State, u.req = s.req ∧
      State.datapath^[4] s = u.deliver (callResult s.cfg s.inMem.read s.secMem.read s.req) := by
  have hunit : s.req.consultsUnit = false := by simp [Request.consultsUnit, hb]
  have htarget : s.dispatched.seq.phase = .short := by
    obtain ⟨-, hq⟩ | ⟨hlong, -⟩ | ⟨hlong, -⟩ := s.dispatchTarget_cases
    · exact hq
    all_goals exact absurd hlong hb
  have hshort := State.datapath_eq htarget (execShort_of_short (s := s.dispatched) hb)
  refine ⟨s.dispatched.handOver (s.req.shortPre s.input s.shortSecret), rfl, ?_⟩
  calc State.datapath^[4] s
    _ = s.dispatched.datapath.datapath := iterate_datapath_add (iterate_check hp hacc) 2
    _ = (s.dispatched.handOver (s.req.shortPre s.input s.shortSecret)).datapath := congrArg _ hshort
    _ = _ := by
      rw [datapath_final (s := s.dispatched.handOver _) rfl hunit, callResult_of_short hb, ← s.space_shortSecret]
      rfl

/-- A long call comes to ACC_INIT with its secret derived. -/
theorem exists_accInit (hb : s.req.bucket = .long) (hen : s.req.ovrEn = false) :
    ∃ n d, n ≤ 3 ∧ State.datapath^[n] s = d ∧ d.seq.phase = .accInit ∧ d.SecretDerived ∧
      d.req = s.req ∧ d.cfg = s.cfg ∧ d.inMem = s.inMem ∧ d.secMem = s.secMem := by
  have hdispatched := iterate_check hp hacc
  obtain ⟨hne, -⟩ | ⟨-, hmix, hq⟩ | ⟨-, hmix, hq⟩ := s.dispatchTarget_cases
  · exact absurd hb hne
  · have hseedmix : State.datapath^[3] s = s.dispatched.mixed :=
      (iterate_datapath_add hdispatched 1).trans (State.datapath_eq (s := s.dispatched) hq rfl)
    have hphase : s.dispatched.mixed.seq.phase = if s.req.ovrEn then .ovrWait else .accInit := rfl
    rw [hen] at hphase
    have hderived : s.dispatched.mixed.SecretDerived := by
      refine State.secretDerived_of_mix hmix (m := s.esecMem) ?_
      rw [State.mixed, s.dispatched.space_mixSource]
      rfl
    exact ⟨3, s.dispatched.mixed, le_rfl, hseedmix, hphase, hderived, rfl, rfl, rfl, rfl⟩
  · rw [hen] at hq
    exact ⟨2, _, by decide, hdispatched, hq, State.secretDerived_of_not_mix hmix, rfl, rfl, rfl, rfl⟩

theorem exists_result_of_long (hb : s.req.bucket = .long) (hen : s.req.ovrEn = false) :
    ∃ n, n ≤ s.geometry.nblk * (s.geometry.nspb + 1) + s.geometry.nst + 7 ∧ ∃ u : State, u.req = s.req ∧
      State.datapath^[n] s = u.deliver (callResult s.cfg s.inMem.read s.secMem.read s.req) := by
  obtain ⟨n, d, hn, hrun, hd, hderived, hreq, hcfg, hin, hsec⟩ := exists_accInit hp hacc hb hen
  have hgeometry : d.geometry = s.geometry := by rw [State.geometry, State.geometry, hreq, hcfg]
  rw [← hreq] at hacc hb hen
  refine ⟨n + (d.geometry.nblk * (d.geometry.nspb + 1) + d.geometry.nst + 4), by rw [hgeometry]; omega,
    d.longMerged, hreq, ?_⟩
  rw [iterate_datapath_add hrun, iterate_long hd hacc hb hen, State.aval3_longMerged_pre hacc hb hderived, hreq, hcfg,
    hin, hsec]

/-- A call that does not consult the unit ends in DONE with its result, within the bound of R84. -/
theorem exists_finished_of_check (hunit : s.req.consultsUnit = false) :
    ∃ n, n + 1 ≤ stepBound s.geometry ∧ ∃ u : State, u.req = s.req ∧
      State.datapath^[n] s = u.finished (callResult s.cfg s.inMem.read s.secMem.read s.req) := by
  obtain ⟨n, hn, u, hu, hrun⟩ : ∃ n, n ≤ s.geometry.nblk * (s.geometry.nspb + 1) + s.geometry.nst + 7 ∧
      ∃ u : State, u.req = s.req ∧
        State.datapath^[n] s = u.deliver (callResult s.cfg s.inMem.read s.secMem.read s.req) := by
    by_cases hb : s.req.bucket = .long
    · exact exists_result_of_long hp hacc hb (by simpa [Request.consultsUnit, hb] using hunit)
    · obtain ⟨u, hu, hrun⟩ := exists_result_of_short hp hacc hb
      exact ⟨4, by omega, u, hu, hrun⟩
  obtain ⟨m, hm, hfinish⟩ := exists_finished u (callResult s.cfg s.inMem.read s.secMem.read s.req)
  refine ⟨n + m, ?_, u, hu, (iterate_datapath_add hrun m).trans hfinish⟩
  rw [stepBound]
  omega

end Call

end Sys2Proof.Machine
end

section
/-! SUPPORT. Host programs: `POLL` around the datapath's run, the expansion of `HASH`, and the call that consults the
override unit (`30_encoding.md` rule R70, `40_dispatch.md` rule R81). -/

namespace Sys2Proof.Machine

/-! ### Chains of steps -/

/-- Steps of the machine lead from the one state to the other. -/
abbrev Steps : State → State → Prop := Relation.ReflTransGen fun s t => step s = .next t

theorem exists_run_of_steps {s t : State} (h : Steps s t) : ∃ n, run n s = .next t := by
  induction h using Relation.ReflTransGen.head_induction_on with
  | refl => exact ⟨0, rfl⟩
  | head hstep _ ih =>
    obtain ⟨n, hn⟩ := ih
    exact ⟨n + 1, (run_succ_of_step hstep n).trans hn⟩

/-! ### The coming moves and the read port are the host's -/

/-- `s` with other coming moves and another value at the read port. -/
@[simps] def State.withPort (s : State) (inputs : List Input) (rdata : U64) : State := { s with inputs, rdata }

section Port

variable (s : State) (l : List Input) (r : U64)

theorem State.withPort_takeAnswer : (s.withPort l r).takeAnswer = s.takeAnswer.withPort l r := by
  simp only [State.takeAnswer, State.withPort_ovr, State.withPort_answer]
  split <;> rfl

theorem State.withPort_overrideCall : (s.withPort l r).overrideCall = s.overrideCall.withPort l r := by
  simp only [State.overrideCall, State.withPort_ovr]
  split
  · rfl
  · exact s.withPort_takeAnswer l r

/-- A phase's operation leaves the coming moves and the read port, and does the same whatever they are. -/
theorem exec_instr_withPort (p : Phase) :
    ∃ t, exec p.instr s = .next t ∧ exec p.instr (s.withPort l r) = .next (t.withPort l r) := by
  cases p
  case check =>
    simp only [Phase.instr, exec, execCheck, State.withPort_req]
    split
    · exact ⟨_, rfl, rfl⟩
    · split <;> exact ⟨_, rfl, rfl⟩
  case short =>
    simp only [Phase.instr, exec, execShort, State.withPort_req]
    split
    case h_7 =>
      split
      · exact ⟨_, rfl, congrArg _ (s.withPort_overrideCall l r)⟩
      · exact ⟨_, rfl, rfl⟩
    all_goals exact ⟨_, rfl, rfl⟩
  case ovrWait => exact ⟨_, rfl, congrArg _ (s.withPort_overrideCall l r)⟩
  case stripe =>
    have hg : (s.withPort l r).geometry = s.geometry := rfl
    simp only [Phase.instr, exec, execStripe, State.withPort_seq, hg]
    split <;> exact ⟨_, rfl, rfl⟩
  case tail =>
    have hg : (s.withPort l r).geometry = s.geometry := rfl
    simp only [Phase.instr, exec, execTail, State.withPort_seq, hg]
    split <;> exact ⟨_, rfl, rfl⟩
  case final =>
    simp only [Phase.instr, exec, execFinal, State.withPort_req]
    split
    case h_4 => exact ⟨_, rfl, congrArg _ (s.withPort_takeAnswer l r)⟩
    all_goals exact ⟨_, rfl, rfl⟩
  all_goals exact ⟨_, rfl, rfl⟩

theorem State.datapath_withPort : (s.withPort l r).datapath = s.datapath.withPort l r := by
  obtain ⟨t, ht, ht'⟩ := exec_instr_withPort s l r s.seq.phase
  rw [State.datapath_eq rfl ht, State.datapath_eq (s := s.withPort l r) rfl ht']

theorem step_datapath : step (s.withPort (.datapath :: l) r) = .next (s.datapath.withPort l r) := by
  rw [step_of_input _ _ l rfl, ← s.datapath_withPort l r]
  exact (runCode_phaseCode (s.withPort l r) (s.withPort l r)).trans (exec_phase_eq_datapath _)

end Port

/-! ### `POLL` -/

section Poll

variable {s : State} {rest : List Input} {r : U64}

theorem Phase.ended_iff (p : Phase) : p.ended = true ↔ p = .done ∨ p = .err := by
  cases p <;> simp [Phase.ended]

theorem step_poll_of_ended (h : s.seq.phase.ended = true) :
    step (s.withPort (.poll :: rest) r) = .next (s.withPort rest (statusWord s)) := by
  rw [step_of_input _ _ rest rfl]
  exact if_pos ((Phase.ended_iff _).1 h)

theorem step_poll_of_running (h : s.seq.phase.ended = false) :
    step (s.withPort (.poll :: rest) r) = .next (s.withPort (pollAgain rest) (statusWord s)) := by
  have hrunning : ¬(s.seq.phase = .done ∨ s.seq.phase = .err) := by rw [← Phase.ended_iff, h]; decide
  rw [step_of_input _ _ rest rfl]
  exact if_neg hrunning

theorem State.datapath_of_ended (h : s.seq.phase.ended = true) : s.datapath = s := by
  rcases (Phase.ended_iff _).1 h with hp | hp <;> exact State.datapath_eq hp rfl

/-- `POLL` before a host's move lets the datapath run to the end of the call and then goes on. -/
theorem steps_poll {i : Input} (hi : i.isOthers = false) (n : Nat)
    (hdone : (State.datapath^[n] s).seq.phase.ended = true) :
    Steps (s.withPort (.poll :: i :: rest) r)
      ((State.datapath^[n] s).withPort (i :: rest) (statusWord (State.datapath^[n] s))) := by
  have hagain : pollAgain (i :: rest) = .datapath :: .poll :: i :: rest := if_neg (by simp [hi])
  induction n generalizing s r with
  | zero => exact .single (step_poll_of_ended hdone)
  | succ n ih =>
    cases hended : s.seq.phase.ended with
    | true =>
      rw [Function.iterate_fixed (State.datapath_of_ended hended)]
      exact .single (step_poll_of_ended hended)
    | false =>
      refine .head (step_poll_of_running hended) ?_
      rw [hagain]
      exact .head (step_datapath _ _ _) (ih hdone)

/-- While the call does not end, `POLL` lets the other agents make their moves. -/
theorem steps_poll_meanwhile {i : Input} (hi : i.isOthers = true) (n : Nat)
    (hrunning : ∀ k, (State.datapath^[k] s).seq.phase.ended = false) :
    Steps (s.withPort (.poll :: (List.replicate n .datapath ++ i :: rest)) r)
      ((State.datapath^[n] s).withPort (i :: .poll :: rest) (statusWord (State.datapath^[n] s))) := by
  induction n generalizing s r with
  | zero =>
    have hagain : pollAgain (i :: rest) = i :: .poll :: rest := if_pos hi
    exact hagain ▸ .single (step_poll_of_running (hrunning 0))
  | succ n ih =>
    refine .head (step_poll_of_running (hrunning 0)) ?_
    exact .head (step_datapath _ _ _) (ih fun k => hrunning (k + 1))

end Poll

/-! ### The lines of a host program -/

section Lines

variable {s : State} {rest : List Input} {r : U64}

theorem step_wrLine {offset : BitVec 7} (h : writeOffsets.contains offset = true) (v : U64) :
    step (s.withPort (wrLine offset v :: rest) r) = exec (.wr offset v) (s.withPort rest r) := by
  rw [step_of_input _ _ rest rfl]
  exact runCode_of_decode ((decode_accessCode _).trans (decodeHostacc_encodeWr h v)) _

theorem step_wrLine_seed (v : U64) :
    step (s.withPort (wrLine 0x10 v :: rest) r) = .next ({ s with seed := v }.withPort rest r) :=
  step_wrLine (by decide) v

theorem step_wrLine_len (v : U64) :
    step (s.withPort (wrLine 0x18 v :: rest) r) = .next ({ s with len := v }.withPort rest r) :=
  step_wrLine (by decide) v

theorem step_wrLine_secretLen (v : U64) :
    step (s.withPort (wrLine 0x20 v :: rest) r) = .next ({ s with secretLen := v }.withPort rest r) :=
  step_wrLine (by decide) v

theorem step_rdLine {offset : BitVec 7} (h : readOffsets.contains offset = true) :
    step (s.withPort (rdLine offset :: rest) r) = exec (.rd offset) (s.withPort rest r) := by
  rw [step_of_input _ _ rest rfl]
  exact runCode_of_decode ((decode_accessCode _).trans (decodeHostacc_encodeRd h)) _

theorem step_ldin (hb : s.seq.phase.busy = false) (bytes : List Byte) :
    step (s.withPort (.ldin bytes :: rest) r) =
      .next ({ s with inMem := s.inMem.fill bytes }.withPort rest r) := by
  rw [step_of_input _ _ rest rfl]
  rcases loadInput_cases bytes (s.withPort rest r) with ⟨⟨hb', -⟩, -⟩ | ⟨-, h⟩
  · cases hb'.symm.trans hb
  · exact h

theorem step_ldsec (hb : s.seq.phase.busy = false) {bytes : List Byte} (hmax : bytes.length ≤ s.cfg.secretMax) :
    step (s.withPort (.ldsec bytes :: rest) r) =
      .next ({ s with secMem := s.secMem.fill bytes }.withPort rest r) := by
  rw [step_of_input _ _ rest rfl]
  rcases loadSecret_cases bytes (s.withPort rest r) with ⟨⟨hb', -⟩, -⟩ | ⟨-, ⟨hmax', -⟩ | ⟨-, h⟩⟩
  · cases hb'.symm.trans hb
  · exact absurd hmax' (Nat.not_lt.2 hmax)
  · exact h

theorem CmdReg.ofWord_encodeCmd (hex secretEn ovrEn inNull : Bool) :
    CmdReg.ofWord (encodeCmd hex secretEn ovrEn inNull) =
      { op := if hex then .hashHex else .hash, secretEn, ovrEn, inNull } := by
  revert hex secretEn ovrEn inNull
  decide

theorem step_commandLine (hb : s.seq.phase.busy = false) {hex secretEn ovrEn : Bool}
    (hmax : secretEn = true → s.secretLen.toNat ≤ s.cfg.secretMax) :
    step (s.withPort (wrLine 0x00 (encodeCmd hex secretEn ovrEn false) :: rest) r) =
      .next ((State.startCall
        { s with cmd := { op := if hex then .hashHex else .hash, secretEn, ovrEn, inNull := false } }).withPort
          rest r) := by
  rw [step_wrLine (by decide), exec_wr_cmd, CmdReg.ofWord_encodeCmd]
  exact (s.withPort rest r).commandWrite_start _ hb fun ⟨hen, hlt⟩ => absurd (hmax hen) (Nat.not_le.2 hlt)

/-- The reads at the end of the expansion of `HASH`. -/
def readBack (hex : Bool) : List Input := rdLine 0x28 :: if hex then [rdLine 0x30, rdLine 0x38] else []

/-- A program whose call has ended reads the result, or the second word of its rendering, back. -/
theorem steps_readBack {hex : Bool} (hdone : s.seq.phase = .done) (hvalid : hex = true → s.status.hexValid = true) :
    Steps (s.withPort (readBack hex) r)
      (s.withPort [] (if hex then le64 (hexBytes s.hex) 8 else s.result)) := by
  have hresult (l : List Input) (r : U64) :
      step (s.withPort (rdLine 0x28 :: l) r) = .next (s.withPort l s.result) := by
    rw [step_rdLine (by decide), exec_rd_of_reg (r := .result) (by decide)]
    simp only [State.hostRead, State.withPort_seq, hdone, if_true]
    rfl
  cases hex with
  | false => exact .single (hresult [] r)
  | true =>
    have hword (offset : BitVec 7) (k : Nat) (hoffset : Reg.ofReadOffset offset = some (.hex k))
        (hread : readOffsets.contains offset = true) (l : List Input) (r : U64) :
        step (s.withPort (rdLine offset :: l) r) = .next (s.withPort l (le64 (hexBytes s.hex) k)) := by
      rw [step_rdLine hread, exec_rd_of_reg hoffset]
      simp only [State.hostRead, State.withPort_seq, State.withPort_status, hdone, hvalid rfl, and_self, if_true]
      rfl
    exact .head (hresult _ _) (.head (hword 0x30 0 (by decide) (by decide) _ _)
      (.single (hword 0x38 8 (by decide) (by decide) [] _)))

end Lines

/-! ### The `HASH` pseudo instruction -/

/-- `s` once the program has loaded the input, the custom secret and the request registers. -/
def State.loaded (s : State) (input : List Byte) (secret : Option (List Byte)) (seed : U64) : State :=
  match secret with
  | none => { s with inMem := s.inMem.fill input, len := BitVec.ofNat 64 input.length, seed }
  | some bytes =>
    { s with
      inMem := s.inMem.fill input
      len := BitVec.ofNat 64 input.length
      secMem := s.secMem.fill bytes
      secretLen := BitVec.ofNat 64 bytes.length
      seed }

/-- `s` once the program has given its command. -/
def State.called (s : State) (input : List Byte) (secret : Option (List Byte)) (seed : U64) (hex ovr : Bool) : State :=
  State.startCall
    { s.loaded input secret seed with
      cmd := { op := if hex then .hashHex else .hash, secretEn := secret.isSome, ovrEn := ovr, inNull := false } }

/-- The program runs to its `POLL` with the call started. -/
theorem steps_hashProgram {s : State} {input : List Byte} {secret : Option (List Byte)} {seed : U64} {hex ovr : Bool}
    {meanwhile : List Input} (hinputs : s.inputs = hashProgram input secret seed hex ovr meanwhile)
    (hb : s.seq.phase.busy = false)
    (hsecret : ∀ b, secret = some b → b.length ≤ s.cfg.secretMax ∧ b.length < 2 ^ 64) :
    Steps s ((s.called input secret seed hex ovr).withPort (.poll :: (meanwhile ++ readBack hex)) s.rdata) := by
  change Steps (s.withPort s.inputs s.rdata) _
  rw [hinputs]
  cases secret with
  | none =>
    have hprogram : hashProgram input none seed hex ovr meanwhile =
        .ldin input :: wrLine 0x18 (BitVec.ofNat 64 input.length) :: wrLine 0x10 seed ::
          wrLine 0x00 (encodeCmd hex false ovr false) :: .poll :: (meanwhile ++ readBack hex) := by
      simp [hashProgram, readBack]
    rw [hprogram]
    refine .head (step_ldin hb input) (.head (step_wrLine_len _) (.head (step_wrLine_seed _) (.single ?_)))
    exact step_commandLine (s := s.loaded input none seed) (secretEn := false) hb fun hen => nomatch hen
  | some bytes =>
    have hprogram : hashProgram input (some bytes) seed hex ovr meanwhile =
        .ldin input :: wrLine 0x18 (BitVec.ofNat 64 input.length) :: .ldsec bytes ::
          wrLine 0x20 (BitVec.ofNat 64 bytes.length) :: wrLine 0x10 seed ::
          wrLine 0x00 (encodeCmd hex true ovr false) :: .poll :: (meanwhile ++ readBack hex) := by
      simp [hashProgram, readBack]
    obtain ⟨hmax, hlt⟩ := hsecret bytes rfl
    have hlen : (BitVec.ofNat 64 bytes.length).toNat ≤ s.cfg.secretMax := by rw [toNat_ofNat_of_lt hlt]; exact hmax
    rw [hprogram]
    refine .head (step_ldin hb input) (.head (step_wrLine_len _) (.head (step_ldsec (by exact hb) (by exact hmax))
      (.head (step_wrLine_secretLen _) (.head (step_wrLine_seed _) (.single ?_)))))
    exact step_commandLine (s := s.loaded input (some bytes) seed) (secretEn := true) hb fun _ => hlen

end Sys2Proof.Machine
end

section
/-! SUPPORT. A call that consults the override unit: how many steps it takes to ask, and what an answer does
(`40_dispatch.md` rule R81). -/

namespace Sys2Proof.Machine

/-- A running call that will ask the override unit, or has asked it and has no answer yet. -/
structure State.Consulting (s : State) : Prop where
  inv : s.Inv
  accepted : s.req.accepted = true
  consults : s.req.consultsUnit = true
  unanswered : s.answer = none
  phase : s.seq.phase = .check ∨ s.seq.phase = .dispatch ∨ s.seq.phase = .seedmix ∨ s.seq.phase = .ovrWait

/-- The steps until such a call has asked the unit. -/
def State.stepsToAsk (s : State) : Nat :=
  match s.seq.phase with
  | .check => 3 + (s.req.mix s.cfg).toNat
  | .dispatch => 2 + (s.req.mix s.cfg).toNat
  | .seedmix => 2
  | _ => if s.ovr.isSome then 0 else 1

theorem Request.consultsUnit_iff (r : Request) : r.consultsUnit = true ↔ r.ovrEn = true ∧ r.bucket = .long := by
  simp [Request.consultsUnit]

theorem Request.mix_eq_true_iff {cfg : Config} {r : Request} :
    r.mix cfg = true ↔ r.seed ≠ 0 ∧ (r.secretEn = false ∨ cfg.policy ≠ .canonSecretAndSeed) := by
  unfold Request.mix
  by_cases hseed : r.seed = 0 <;> cases r.secretEn <;> simp [hseed]

theorem Request.bucket_of_long {r : Request} (h : 240 < r.len.toNat) : r.bucket = .long := by
  cases hb : r.bucket <;> have hlen := Request.bucket_covers hb <;> simp only [Bucket.Covers] at hlen
  case long => rfl
  all_goals omega

namespace State.Consulting

variable {s : State} (h : s.Consulting)
include h

/-- Until the answer comes the call goes on, one step nearer to asking. -/
theorem datapath : s.datapath.Consulting ∧ s.datapath.req = s.req ∧ s.datapath.stepsToAsk = s.stepsToAsk - 1 := by
  obtain ⟨hinv, hacc, hunit, hans, hphase⟩ := h
  obtain ⟨hen, hb⟩ := (s.req.consultsUnit_iff).1 hunit
  have hnext : s.datapath.Inv := exec_phase_inv hinv (exec_phase_eq_datapath s)
  have key {t : State} (ht : s.datapath = t) (hreq : t.req = s.req) (hans : t.answer = none)
      (hp : t.seq.phase = .check ∨ t.seq.phase = .dispatch ∨ t.seq.phase = .seedmix ∨ t.seq.phase = .ovrWait)
      (hsteps : t.stepsToAsk = s.stepsToAsk - 1) :
      s.datapath.Consulting ∧ s.datapath.req = s.req ∧ s.datapath.stepsToAsk = s.stepsToAsk - 1 := by
    rw [ht] at hnext ⊢
    exact ⟨⟨hnext, hreq ▸ hacc, hreq ▸ hunit, hans, hp⟩, hreq, hsteps⟩
  rcases hphase with hp | hp | hp | hp
  · refine key (State.datapath_eq hp (execCheck_of_accepted hacc)) rfl hans (by simp) ?_
    simp only [State.stepsToAsk, hp, State.goto_seq, State.goto_req, State.goto_cfg]
    omega
  · have hrun : s.datapath = s.dispatched := State.datapath_eq hp rfl
    have hovr := hinv.ovr_eq_none (by simp [hp])
    obtain ⟨hne, -⟩ | ⟨-, hmix, hq⟩ | ⟨-, hmix, hq⟩ := s.dispatchTarget_cases
    · exact absurd hb hne
    · exact key hrun rfl hans (by simp [State.dispatched, hq])
        (by simp [State.stepsToAsk, State.dispatched, hp, hq, hmix])
    · rw [hen] at hq
      exact key hrun rfl hans (by simp [State.dispatched, hq])
        (by simp [State.stepsToAsk, State.dispatched, hp, hq, hmix, hovr])
  · have hovr := hinv.ovr_eq_none (by simp [hp])
    exact key (State.datapath_eq (t := s.mixed) hp rfl) rfl hans (by simp [State.mixed, hen])
      (by simp [State.stepsToAsk, State.mixed, hp, hen, hovr])
  · have hrun : s.datapath = s.overrideCall := State.datapath_eq hp rfl
    obtain ⟨hovr, hcall⟩ | ⟨o, v, -, hv, -⟩ | ⟨hovr, -, hcall⟩ := s.overrideCall_cases
    · exact key (hrun.trans hcall) rfl hans (by simp) (by simp [State.stepsToAsk, hp, hovr])
    · cases hv.symm.trans hans
    · exact key (hrun.trans hcall) rfl hans (by simp [hp])
        (by simp [State.stepsToAsk, hp, Option.isSome_iff_ne_none.2 hovr])

theorem iterate (n : Nat) :
    (State.datapath^[n] s).Consulting ∧ (State.datapath^[n] s).req = s.req ∧
      (State.datapath^[n] s).stepsToAsk = s.stepsToAsk - n := by
  induction n with
  | zero => exact ⟨h, rfl, rfl⟩
  | succ n ih =>
    obtain ⟨hn, hreq, hsteps⟩ := ih
    obtain ⟨hnext, hreq', hsteps'⟩ := hn.datapath
    rw [Function.iterate_succ_apply']
    exact ⟨hnext, hreq'.trans hreq, by rw [hsteps', hsteps]; omega⟩

theorem not_ended : s.seq.phase.ended = false := by
  rcases h.phase with hp | hp | hp | hp <;> rw [hp] <;> rfl

/-- A call that is no step away from asking has a request pending. -/
theorem asked (hsteps : s.stepsToAsk = 0) : s.seq.phase = .ovrWait ∧ ∃ o, s.ovr = some o := by
  rcases h.phase with hp | hp | hp | hp <;> simp only [State.stepsToAsk, hp] at hsteps
  case inr.inr.inr =>
    refine ⟨hp, Option.isSome_iff_exists.1 ?_⟩
    by_contra hne
    rw [if_neg hne] at hsteps
    cases hsteps
  all_goals omega

end State.Consulting

/-- `s` with the unit's answer taken and the result not yet written. -/
def State.answered (s : State) : State :=
  { s with status := { s.status with ovrUsed := true }, ovr := none, answer := none }

/-- Once it is answered, a waiting call ends with the answer as its result. -/
theorem exists_finished_of_answer {s : State} {o : OvrRequest} (hp : s.seq.phase = .ovrWait) (hovr : s.ovr = some o)
    (v : U64) : ∃ n, State.datapath^[n] { s with answer := some v } = s.answered.finished v := by
  obtain ⟨n, -, hfinish⟩ := exists_finished s.answered v
  have haccept : { s with answer := some v }.datapath = s.answered.deliver v := by
    refine State.datapath_eq (s := { s with answer := some v }) (p := .ovrWait) hp ?_
    simp only [Phase.instr, exec, execOvrWait, State.overrideCall, State.takeAnswer, hovr]
    rfl
  exact ⟨n + 1, by rw [Function.iterate_succ_apply, haccept, hfinish]⟩

theorem step_answer {s : State} {o : OvrRequest} {rest : List Input} {r : U64} (hovr : s.ovr = some o)
    (hans : s.answer = none) (v : U64) :
    step (s.withPort (.answer v :: rest) r) = .next ({ s with answer := some v }.withPort rest r) := by
  rw [step_of_input _ _ rest rfl]
  exact if_pos (by simp [hovr, hans])

/-- The status word of a call that the unit answered: DONE, bucket 6, `OVR_USED`, and `HEX_VALID` after `HASH_HEX`. -/
theorem statusWord_answered {s : State} (h : s.Inv) (hp : s.seq.phase = .ovrWait) (hb : s.req.bucket = .long)
    {hex : Bool} (hop : s.req.op = if hex then .hashHex else .hash) (v : U64) :
    statusWord (s.answered.finished v) = if hex then 0x1E2 else 0x0E2 := by
  have hplain := h.status_eq (by simp [hp, Phase.beforeResult])
  have hstatus : (s.answered.finished v).status =
      { err := .none, bucket := some .long, ovrUsed := true, hexValid := hex } := by
    rw [State.finished_status]
    cases hex <;> simp [State.answered, hplain, State.plainStatus, hp, hb, hop, Phase.beforeBucket]
  rw [statusWord, hstatus, State.finished_phase]
  cases hex <;> decide

/-! ### The call a host program makes -/

section Program

variable {s : State} {input : List Byte} {secret : Option (List Byte)} {seed : U64} {hex ovr : Bool}

theorem State.called_req : (s.called input secret seed hex ovr).req =
    { op := if hex then .hashHex else .hash
      secretEn := secret.isSome
      ovrEn := ovr
      inNull := false
      seed := seed
      len := BitVec.ofNat 64 input.length
      secretLen := (s.loaded input secret seed).secretLen } := by
  cases secret <;> rfl

theorem State.called_cfg : (s.called input secret seed hex ovr).cfg = s.cfg := by
  cases secret <;> rfl

theorem State.called_inMem : (s.called input secret seed hex ovr).inMem = s.inMem.fill input := by
  cases secret <;> rfl

theorem State.called_phase : (s.called input secret seed hex ovr).seq.phase = .check := rfl

theorem State.called_accepted (hsecret : ∀ b, secret = some b → 136 ≤ b.length ∧ b.length < 2 ^ 64) :
    (s.called input secret seed hex ovr).req.accepted = true := by
  rw [State.called_req]
  cases secret with
  | none => rfl
  | some bytes =>
    obtain ⟨hmin, hlt⟩ := hsecret bytes rfl
    have hlen : ¬(s.loaded input (some bytes) seed).secretLen.toNat < secretMin := by
      rw [State.loaded, toNat_ofNat_of_lt hlt]
      exact Nat.not_lt.2 hmin
    simp only [Request.accepted, hlen]
    rfl

theorem State.called_inv (h : s.Inv) (hb : s.seq.phase.busy = false) : (s.called input secret seed hex ovr).Inv := by
  obtain ⟨hin, hsec, -⟩ := h.memories
  have hin' := Memory.wf_fill s.inMem input hin
  cases secret with
  | none => exact (h.hostSide hin' hsec).startCall hb _
  | some bytes => exact (h.hostSide hin' (Memory.wf_fill s.secMem bytes hsec)).startCall hb _

/-- The program's call computes the hash of the program's input, secret and seed. -/
theorem callResult_called (hinput : input.length < 2 ^ 64)
    (hsecret : ∀ b, secret = some b → 136 ≤ b.length ∧ b.length < 2 ^ 64) :
    callResult s.cfg (s.called input secret seed hex ovr).inMem.read (s.called input secret seed hex ovr).secMem.read
        (s.called input secret seed hex ovr).req =
      callResult s.cfg (fun k => input.getD k 0) (fun k => (secret.getD []).getD k 0)
        { op := if hex then .hashHex else .hash
          secretEn := secret.isSome
          ovrEn := ovr
          inNull := false
          seed := seed
          len := BitVec.ofNat 64 input.length
          secretLen := BitVec.ofNat 64 (secret.getD []).length } := by
  have hacc := State.called_accepted (s := s) (input := input) (seed := seed) (hex := hex) (ovr := ovr) hsecret
  have hfill (m : Memory) {bytes : List Byte} (hlt : bytes.length < 2 ^ 64) :
      AgreeBelow (BitVec.ofNat 64 bytes.length).toNat (m.fill bytes).read fun k => bytes.getD k 0 := by
    intro k hk
    rw [toNat_ofNat_of_lt hlt] at hk
    rw [Memory.read_fill, if_pos hk]
  rw [State.called_req] at hacc ⊢
  rw [State.called_inMem]
  cases secret with
  | none =>
    refine (callResult_congr (sec' := fun _ => 0) hacc (hfill s.inMem hinput) fun hen => nomatch hen).trans ?_
    exact (callResult_of_no_secret rfl 0).symm
  | some bytes =>
    obtain ⟨-, hlt⟩ := hsecret bytes rfl
    exact callResult_congr hacc (hfill s.inMem hinput) fun _ => hfill s.secMem hlt

/-- The program's call asks the unit within three steps, or within four where the secret is derived. -/
theorem State.called_stepsToAsk_le {wait : Nat} (hwait : 3 ≤ wait)
    (hmix : seed ≠ 0 → (secret = none ∨ s.cfg.policy ≠ .canonSecretAndSeed) → 4 ≤ wait) :
    (s.called input secret seed hex ovr).stepsToAsk ≤ wait := by
  have hsteps : (s.called input secret seed hex ovr).stepsToAsk =
      3 + ((s.called input secret seed hex ovr).req.mix s.cfg).toNat := by
    rw [State.stepsToAsk, State.called_phase, State.called_cfg]
  rw [hsteps, State.called_req]
  cases hm : Request.mix s.cfg _ with
  | false => exact hwait
  | true =>
    obtain ⟨hseed, hpolicy⟩ := Request.mix_eq_true_iff.1 hm
    exact hmix hseed (hpolicy.imp_left fun hnone => by simpa using hnone)

theorem State.called_consulting (h : s.Inv) (hb : s.seq.phase.busy = false) (hlong : 240 < input.length)
    (hinput : input.length < 2 ^ 64) (hsecret : ∀ b, secret = some b → 136 ≤ b.length ∧ b.length < 2 ^ 64) :
    (s.called input secret seed hex true).Consulting := by
  have hinv := s.called_inv (input := input) (secret := secret) (seed := seed) (hex := hex) (ovr := true) h hb
  have hbucket : (s.called input secret seed hex true).req.bucket = .long := by
    rw [State.called_req]
    exact Request.bucket_of_long ((toNat_ofNat_of_lt hinput).symm ▸ hlong)
  refine ⟨hinv, State.called_accepted hsecret, (Request.consultsUnit_iff _).2 ⟨?_, hbucket⟩,
    hinv.answer_eq_none (hinv.ovr_eq_none (by simp [State.called_phase])), .inl State.called_phase⟩
  rw [State.called_req]

end Program

end Sys2Proof.Machine
end

section
/-! PROOFS. The `HASH` pseudo instruction. -/

namespace Sys2Proof.Proofs

open Sys2Proof.Machine

/-- A program at its `POLL`, whose call the datapath brings to an end, runs to its own end and reads back what the call
left. -/
theorem exists_run_of_poll {s c u : State} {hex : Bool} {v r : U64} {n : Nat}
    (h : Steps s (c.withPort (.poll :: readBack hex) r)) (hrun : State.datapath^[n] c = u.finished v)
    (hop : hex = true → u.req.op = .hashHex) :
    ∃ m t, run m s = .next t ∧ t.inputs = [] ∧ t.seq.phase = .done ∧ t.result = v ∧
      statusWord t = statusWord (u.finished v) ∧ (hex = false → t.rdata = v) ∧
      (hex = true → ∀ k, (hk : k < 8) → t.rdata.toNat / 2 ^ (8 * k) % 2 ^ 8 = ((hexFmt v)[8 + k]).toNat) := by
  have hdone := u.finished_phase v
  have hpoll := steps_poll (rest := if hex then [rdLine 0x30, rdLine 0x38] else []) (r := r) (i := rdLine 0x28) rfl n
    (by rw [hrun, hdone]; rfl)
  rw [hrun] at hpoll
  have hread := steps_readBack (r := statusWord (u.finished v)) hdone fun hhex =>
    (State.finished_of_hashHex (hop hhex) v).1
  obtain ⟨m, hm⟩ := exists_run_of_steps ((h.trans hpoll).trans hread)
  refine ⟨m, _, hm, rfl, hdone, u.finished_result v, rfl, fun hhex => ?_, fun hhex k hk => ?_⟩
  · simp [hhex]
  · simp only [hhex, State.withPort_rdata, if_true]
    rw [le64_div_mod _ _ _ hk, hexBytes_of_lt _ _ (by omega)]
    simp only [(State.finished_of_hashHex (hop hhex) v).2]

/-- Settles O60: the program runs to its `POLL` with the call started; the datapath brings the call to its end, by itself
or with the unit's answer; and the program reads the outcome back. -/
theorem hashProgramReturnsTheHash : Obligations.HashProgramReturnsTheHash := by
  refine ⟨fun s input secret seed hex hwait hprogram hinput hsecret => ?_,
    fun s input secret seed hex wait v hinv hwait hmin hmix hprogram hlong hinput hsecret => ?_⟩
  all_goals
    have hb := (Phase.stateCode_ne_one_iff _).1 hwait
    have hlegal (b : List Byte) (hb : secret = some b) : 136 ≤ b.length ∧ b.length < 2 ^ 64 :=
      ⟨(hsecret b hb).1, (hsecret b hb).2.2⟩
    have hstart := steps_hashProgram hprogram hb fun b hb => (hsecret b hb).2
  · have hacc := State.called_accepted (s := s) (input := input) (seed := seed) (hex := hex) (ovr := false) hlegal
    have hunit : (s.called input secret seed hex false).req.consultsUnit = false := by rw [State.called_req]; rfl
    obtain ⟨n, -, u, hu, hrun⟩ := exists_finished_of_check State.called_phase hacc hunit
    rw [State.called_cfg, callResult_called hinput hlegal] at hrun
    obtain ⟨m, t, hm, hinputs, hdone, hresult, -, hplain, hrendered⟩ := exists_run_of_poll hstart hrun fun hhex => by
      rw [hu, State.called_req, hhex]; rfl
    rw [← hresult] at hplain hrendered
    exact ⟨m, t, hm, hinputs, hdone, hresult, hplain, hrendered⟩
  · have hcall := s.called_consulting (seed := seed) (hex := hex) hinv hb hlong hinput hlegal
    obtain ⟨hu, hreq, hsteps⟩ := hcall.iterate wait
    rw [Nat.sub_eq_zero_of_le (State.called_stepsToAsk_le hmin hmix)] at hsteps
    obtain ⟨hphase, o, hovr⟩ := hu.asked hsteps
    have hbucket := ((Request.consultsUnit_iff _).1 hu.consults).2
    have hop : (State.datapath^[wait] (s.called input secret seed hex true)).req.op =
        if hex then .hashHex else .hash := by rw [hreq, State.called_req]
    obtain ⟨n, hrun⟩ := exists_finished_of_answer hphase hovr v
    have hmeanwhile := steps_poll_meanwhile (r := s.rdata) (rest := readBack hex) (i := .answer v) rfl wait
      fun k => (hcall.iterate k).1.not_ended
    rw [List.append_assoc, List.singleton_append] at hstart
    have hanswer := (hstart.trans hmeanwhile).tail (step_answer hovr hu.unanswered v)
    obtain ⟨m, t, hm, hinputs, hdone, hresult, hstatus, hreadBack⟩ := exists_run_of_poll hanswer hrun fun hhex =>
      hop.trans (if_pos hhex)
    rw [statusWord_answered hu.inv hphase hbucket hop] at hstatus
    exact ⟨m, t, hm, hinputs, hdone, hresult, hstatus, hreadBack⟩

end Sys2Proof.Proofs
end

section
/-! SUPPORT. The model's words as the numbers of the statements: the primitives, the lanes and the effective secret,
each against its formula in `Reference`; then the sequencer's move in each loop. -/

namespace Sys2Proof.Machine

/-! ### Primitives (`00_scope.md` rules R6 to R14) -/

theorem le_eq_leNat (b : Bytes) (off n : Nat) : Reference.le b off n = leNat b off n := by
  induction n generalizing off with
  | zero => rfl
  | succ n ih =>
    have hbyte (k : Nat) :
        2 ^ (8 * (k + 1)) * (b (off + (k + 1))).toNat = 256 * (2 ^ (8 * k) * (b (off + 1 + k)).toNat) := by
      rw [show off + (k + 1) = off + 1 + k by omega]
      ring
    have hrest : ∑ k ∈ Finset.range n, 2 ^ (8 * (k + 1)) * (b (off + (k + 1))).toNat =
        256 * leNat b (off + 1) n := by
      simp only [hbyte]
      rw [← Finset.mul_sum, ← ih, Reference.le]
    rw [Reference.le, Finset.sum_range_succ', hrest, leNat]
    simp [Nat.add_comm]

@[simp] theorem toNat_le64 (b : Bytes) (off : Nat) : (le64 b off).toNat = Reference.le b off 8 := by
  rw [le_eq_leNat, le64, BitVec.toNat_ofNat, Nat.mod_eq_of_lt (leNat_lt b off 8)]

@[simp] theorem toNat_mul64 (a b : U64) : (mul64 a b).toNat = Reference.mul a.toNat b.toNat := BitVec.toNat_mul a b

@[simp] theorem toNat_xorShift (v : U64) (n : Nat) : (xorShift v n).toNat = Reference.xorShift v.toNat n := by
  rw [xorShift, BitVec.toNat_xor, BitVec.toNat_ushiftRight, Nat.shiftRight_eq_div_pow, Reference.xorShift]

/-- The product of two 32-bit values fits 64 bits (`00_scope.md` rule R8). -/
@[simp] theorem toNat_mul32 (a b : U32) : (mul32 a b).toNat = a.toNat * b.toNat := by
  have ha := a.isLt
  have hb := b.isLt
  have hlt : a.toNat * b.toNat < 2 ^ 64 := (Nat.mul_lt_mul'' ha hb).trans_eq (by norm_num)
  rw [mul32, BitVec.toNat_mul, BitVec.toNat_setWidth, BitVec.toNat_setWidth, Nat.mod_eq_of_lt (a := a.toNat) (by omega),
    Nat.mod_eq_of_lt (a := b.toNat) (by omega), Nat.mod_eq_of_lt hlt]

theorem toNat_low32 (v : U64) : (v.extractLsb' 0 32).toNat = v.toNat % 2 ^ 32 := by
  rw [toNat_extractLsb', Nat.pow_zero, Nat.div_one]

theorem toNat_high32 (v : U64) : (v.extractLsb' 32 32).toNat = v.toNat / 2 ^ 32 := by
  have hv := v.isLt
  rw [toNat_extractLsb']
  exact Nat.mod_eq_of_lt (by omega)

/-! ### Lanes (`42_long.md` rules R107 and R108) -/

theorem lanes_eq (acc : Vector U64 8) (i : Fin 8) : Reference.lanes acc i = acc[i].toNat := by
  simp [Reference.lanes]

/-- The lane whose input word is added to lane `i`. -/
theorem xor_one_eq_partner (i : Fin 8) : i.val ^^^ 1 = if i.val % 2 = 0 then i.val + 1 else i.val - 1 := by
  revert i
  decide

theorem lanes_accumulate (inp sec : Bytes) (io so : Nat) (acc : Vector U64 8) (i : Nat) (hi : i < 8) :
    Reference.lanes (accumulate inp sec io so acc) i =
      Reference.accumulate inp sec io so (Reference.lanes acc) i := by
  have hlane := accumulate_lane inp sec io so acc ⟨i, hi⟩
  rw [xor_one_eq_partner] at hlane
  rw [lanes_eq _ ⟨i, hi⟩, hlane, Reference.accumulate, lanes_eq acc ⟨i, hi⟩]
  simp only [BitVec.toNat_add, toNat_mul32, toNat_low32, toNat_high32, BitVec.toNat_xor, toNat_le64, Nat.mod_add_mod]

theorem lanes_scrambleLanes (sec : Bytes) (n : Nat) (acc : Vector U64 8) (i : Nat) (hi : i < 8) :
    Reference.lanes (scrambleLanes sec n acc) i = Reference.scramble sec n (Reference.lanes acc) i := by
  have hlane : (scrambleLanes sec n acc)[(⟨i, hi⟩ : Fin 8)] =
      mul64 (xorShift acc[(⟨i, hi⟩ : Fin 8)] 47 ^^^ le64 sec (n - 64 + 8 * i)) (PRIME32_1.setWidth 64) :=
    scrambleLanes_lane sec n acc ⟨i, hi⟩
  rw [lanes_eq _ ⟨i, hi⟩, hlane, Reference.scramble, lanes_eq acc ⟨i, hi⟩, toNat_mul64, BitVec.toNat_xor,
    toNat_xorShift, toNat_le64]
  rfl

/-! ### The effective secret -/

/-- The secret of a long call is the one in use or its derivation, as the seed and the policy say (`43_seedmixer.md`
rules R127, R129). -/
theorem State.secret_eq (s : State) : Reference.secret s = (s.effectiveSecret, s.effectiveLen) := by
  unfold Reference.secret State.effectiveSecret State.effectiveLen Request.effectiveSecret Request.mix
    Request.mixSource Request.secretInUse
  by_cases hseed : s.req.seed = 0
  · cases s.req.secretEn <;> rw [if_pos hseed, if_pos hseed] <;> rfl
  · rw [if_neg hseed, if_neg hseed]
    cases s.req.secretEn
    · cases s.cfg.policy <;> rfl
    · cases s.cfg.policy <;> rfl

/-! ### The loops' phases (`40_dispatch.md` rule R84) -/

/-- STRIPE in its loop: the counters do not overflow, so the sequencer moves as the numbers say. -/
theorem execStripe_eq {s : State} (hstr : s.seq.str.toNat < s.geometry.nspb) :
    ∃ str : U64,
      execStripe s =
        .next
          { s with
            acc := s.accumulated (s.seq.blk.toNat * s.geometry.blkLen + 64 * s.seq.str.toNat) (8 * s.seq.str.toNat)
            seq :=
              { s.seq with
                str
                phase := if s.seq.str.toNat + 1 = s.geometry.nspb then .scramble else .stripe } } ∧
      str.toNat = if s.seq.str.toNat + 1 = s.geometry.nspb then 0 else s.seq.str.toNat + 1 := by
  unfold execStripe
  by_cases hlast : s.seq.str.toNat + 1 = s.geometry.nspb
  · rw [if_neg (by omega), if_pos hlast, if_pos hlast]
    exact ⟨0, rfl, rfl⟩
  · rw [if_pos (by omega), if_neg hlast, if_neg hlast]
    exact ⟨_, rfl, toNat_add_one hstr s.nspb_lt⟩

/-- TAIL in its loop. -/
theorem execTail_eq {s : State} (hstr : s.seq.str.toNat < s.geometry.nst) :
    ∃ str : U64,
      execTail s =
        .next
          { s with
            acc := s.accumulated (s.geometry.nblk * s.geometry.blkLen + 64 * s.seq.str.toNat) (8 * s.seq.str.toNat)
            seq :=
              { s.seq with
                str
                phase := if s.seq.str.toNat + 1 = s.geometry.nst then .last else .tail } } ∧
      str.toNat = if s.seq.str.toNat + 1 = s.geometry.nst then s.seq.str.toNat else s.seq.str.toNat + 1 := by
  unfold execTail
  by_cases hlast : s.seq.str.toNat + 1 = s.geometry.nst
  · rw [if_neg (by omega), if_pos hlast, if_pos hlast]
    exact ⟨s.seq.str, rfl, rfl⟩
  · rw [if_pos (by omega), if_neg hlast, if_neg hlast]
    exact ⟨_, rfl, toNat_add_one hstr s.nst_lt⟩

end Sys2Proof.Machine
end

section
/-! SUPPORT. Which steps enter the error state, what the dispatcher chooses, and the three operations of the override
port. -/

namespace Sys2Proof.Machine

/-! ### Entering the error state -/

theorem State.afterResult_ne_err (s : State) : s.afterResult ≠ .err := by
  unfold State.afterResult
  cases s.req.op <;> decide

theorem State.dispatchTarget_ne_err (s : State) : s.dispatchTarget ≠ .err := by
  rcases s.dispatchTarget_cases with ⟨-, hq⟩ | ⟨-, -, hq⟩ | ⟨-, -, hq⟩ <;> rw [hq]
  · decide
  · decide
  · cases s.req.ovrEn <;> decide

theorem State.takeAnswer_phase_ne_err {s : State} (h : s.seq.phase ≠ .err) : s.takeAnswer.seq.phase ≠ .err := by
  rcases s.takeAnswer_cases with ⟨-, v, -, -, ht⟩ | ⟨-, ht⟩ <;> rw [ht]
  · exact s.afterResult_ne_err
  · exact h

theorem State.overrideCall_phase_ne_err {s : State} (h : s.seq.phase ≠ .err) : s.overrideCall.seq.phase ≠ .err := by
  rcases s.overrideCall_cases with ⟨-, ht⟩ | ⟨-, v, -, -, ht⟩ | ⟨-, -, ht⟩ <;> rw [ht]
  · simp
  · exact s.afterResult_ne_err
  · exact h

/-- No operation of the datapath but CHECK enters the error state. -/
theorem Phase.exec_instr_phase_ne_err {p : Phase} {s t : State} (hp : p ≠ .check) (hs : s.seq.phase ≠ .err)
    (h : exec p.instr s = .next t) : t.seq.phase ≠ .err := by
  cases p
  case check => exact absurd rfl hp
  case idle | done | err => cases h; exact hs
  case dispatch => cases h; exact s.dispatchTarget_ne_err
  case short =>
    change execShort s = .next t at h
    unfold execShort at h
    split at h
    case h_7 =>
      split at h <;> cases h
      · exact State.overrideCall_phase_ne_err hs
      · exact State.afterResult_ne_err _
    all_goals cases h; simp
  case seedmix => cases h; cases hen : s.req.ovrEn <;> simp
  case ovrWait => cases h; exact State.overrideCall_phase_ne_err hs
  case accInit => cases h; dsimp only; split <;> decide
  case stripe =>
    change execStripe s = .next t at h
    unfold execStripe at h
    dsimp only at h
    split at h <;> cases h <;> simp
  case scramble =>
    cases h
    dsimp only
    split
    · decide
    · split <;> decide
  case tail =>
    change execTail s = .next t at h
    unfold execTail at h
    dsimp only at h
    split at h <;> cases h <;> simp
  case last | merge | format => cases h; simp
  case final =>
    change execFinal s = .next t at h
    unfold execFinal at h
    split at h <;> cases h
    case h_4 => exact State.takeAnswer_phase_ne_err hs
    all_goals exact s.afterResult_ne_err

/-- The request of `s` fails the check, and `t` records the cause: the secret's first (`60_exceptions.md` rules R150,
R153). -/
def State.FailsWith (s t : State) : Prop :=
  (t.status.err = .invalidSecret ∧ s.req.secretEn = true ∧ s.req.secretLen.toNat < 136) ∨
    (t.status.err = .invalidInput ∧ s.req.inNull = true ∧ ¬(s.req.secretEn = true ∧ s.req.secretLen.toNat < 136))

theorem execCheck_failsWith {s t : State} (h : execCheck s = .next t) (ht : t.seq.phase = .err) : s.FailsWith t := by
  unfold execCheck at h
  simp only [Bool.and_eq_true, decide_eq_true_eq] at h
  split at h
  · cases h
    exact .inl ⟨rfl, ‹_›⟩
  · split at h <;> cases h
    · exact .inr ⟨rfl, ‹_›, ‹_›⟩
    · cases ht

/-- The datapath enters the error state by CHECK alone. -/
theorem exec_phase_failsWith {s t : State} (h : exec s.seq.phase.instr s = .next t) (ht : t.seq.phase = .err)
    (hs : s.seq.phase ≠ .err) : s.seq.phase = .check ∧ s.FailsWith t := by
  by_cases hp : s.seq.phase = .check
  · rw [hp] at h
    exact ⟨hp, execCheck_failsWith h ht⟩
  · exact absurd ht (Phase.exec_instr_phase_ne_err hp hs h)

theorem State.hostWrite_phase {s t : State} {v : U64} {r : Reg} (h : s.hostWrite v r = .next t) :
    t.seq.phase = s.seq.phase ∨ t.seq.phase = .check := by
  rcases s.hostWrite_cases t v r h with rfl | rfl | rfl | rfl | ⟨-, -, rfl⟩
  case inr.inr.inr.inr => exact .inr rfl
  all_goals exact .inl rfl

theorem State.hostRead_phase (s : State) (r : Reg) : (s.hostRead r).2.seq.phase = s.seq.phase := by
  rcases s.hostRead_state r with h | h <;> rw [h]

/-- A move that is not the datapath's leaves the phase, starts a call or resets. -/
theorem deliverInput_phase {i : Input} {s t : State} (hi : i ≠ .datapath) (h : deliverInput i s = .next t) :
    t.seq.phase = s.seq.phase ∨ t.seq.phase = .check ∨ t.seq.phase = .idle := by
  cases i <;> simp only [deliverInput] at h
  case datapath => exact absurd rfl hi
  case access w =>
    cases hd : decode (accessCode w) with
    | error e => cases (runCode_of_decode_error hd s).symm.trans h
    | ok i =>
      rw [runCode_of_decode hd] at h
      rw [decode_accessCode] at hd
      rcases exec_of_decodeHostacc hd s with ⟨_, r, v, -, -, hx⟩ | ⟨r, hx⟩
      · exact (State.hostWrite_phase (hx.symm.trans h)).imp_right .inl
      · cases hx.symm.trans h
        exact .inl (s.hostRead_phase r)
  case command w =>
    rcases s.commandWrite_cases t _ ((runCode_commandCode w s).symm.trans h) with ⟨-, rfl⟩ | ⟨-, -, rfl⟩
    · exact .inl rfl
    · exact .inr (.inl rfl)
  case writeNarrow offset width v =>
    by_cases ho : offset.toNat < 0x40
    · rw [writeNarrow_in_window _ _ _ _ ho] at h
      exact (State.hostWrite_phase h).imp_right .inl
    · cases (writeNarrow_past_window offset width v s (by omega)).symm.trans h
  case readByte offset =>
    cases h
    exact .inl (s.hostRead_phase _)
  case ldin bytes =>
    rcases loadInput_cases bytes s with ⟨-, hl⟩ | ⟨-, hl⟩ <;> cases hl.symm.trans h
    exact .inl rfl
  case ldsec bytes =>
    rcases loadSecret_cases bytes s with ⟨-, hl⟩ | ⟨-, ⟨-, hl⟩ | ⟨-, hl⟩⟩ <;> cases hl.symm.trans h
    exact .inl rfl
  case poll =>
    obtain ⟨moves, hp, -⟩ := poll_cases s
    cases hp.symm.trans h
    exact .inl rfl
  case answer v =>
    rcases unitAnswers_cases v s with hu | hu <;> cases hu.symm.trans h <;> exact .inl rfl
  case reset => cases h; exact .inr (.inr rfl)

/-! ### The dispatcher -/

theorem Request.bucket_eq_long_iff (r : Request) : r.bucket = .long ↔ 240 < r.len.toNat :=
  ⟨fun h => Request.bucket_covers h, Request.bucket_of_long⟩

theorem Request.mix_eq_false_iff {cfg : Config} {r : Request} :
    r.mix cfg = false ↔ r.seed = 0 ∨ (r.secretEn = true ∧ cfg.policy = .canonSecretAndSeed) := by
  rw [← Bool.not_eq_true, Request.mix_eq_true_iff]
  cases r.secretEn <;> simp [imp_iff_not_or]

/-- `STATUS.BUCKET` holds the number of bucket boundaries at or below `L`. -/
theorem Request.bucketNumber_bucket (r : Request) :
    Reference.bucketNumber (some r.bucket) = Reference.bucketCode r.len.toNat :=
  (toNat_bucketField _).symm.trans (bucketCode_of_covers (Request.bucket_covers rfl)).symm

/-- A short call with a seed uses the default table (`40_dispatch.md` rule R79). -/
theorem State.shortSecret_of_seed {s : State} (h : s.req.seed ≠ 0) : s.shortSecret = ksecret := by
  rw [State.shortSecret, Request.shortSecret, if_neg h]
  rfl

/-! ### The override port -/

theorem State.afterResult_eq (s : State) : s.afterResult = Reference.afterResult s := by
  unfold State.afterResult Reference.afterResult
  cases s.req.op <;> rfl

theorem State.overrideCall_of_no_request {s : State} (h : s.ovr = none) : s.overrideCall = s.issueOverride := by
  simp only [State.overrideCall, h]

theorem State.takeAnswer_of_answer {s : State} {o : OvrRequest} {v : U64} (ho : s.ovr = some o)
    (ha : s.answer = some v) : s.takeAnswer = s.acceptAnswer v := by
  simp only [State.takeAnswer, ho, ha]

theorem State.takeAnswer_of_unanswered {s : State} (h : s.ovr = none ∨ s.answer = none) : s.takeAnswer = s := by
  rcases s.takeAnswer_cases with ⟨o, v, ho, ha, -⟩ | ⟨-, ht⟩
  · simp [ho, ha] at h
  · exact ht

theorem State.overrideCall_of_request {s : State} (h : s.ovr ≠ none) : s.overrideCall = s.takeAnswer := by
  obtain ⟨o, ho⟩ := Option.ne_none_iff_exists'.1 h
  simp only [State.overrideCall, ho]

/-- The three operations of the override port, once a request is pending. -/
theorem exec_of_request {s : State} (h : s.ovr ≠ none) {i : Instr}
    (hi : i = .ovrWait ∨ i = .longOvr ∨ i = .bypass) : exec i s = .next s.takeAnswer := by
  rcases hi with rfl | rfl | rfl
  case inr.inr => rfl
  all_goals exact congrArg _ (State.overrideCall_of_request h)

/-! ### The waiting phases -/

/-- In IDLE, DONE and ERR the datapath does nothing. -/
theorem exec_instr_of_not_busy {p : Phase} (h : p.busy = false) (s : State) : exec p.instr s = .next s := by
  cases p
  case idle | done | err => rfl
  all_goals cases h

end Sys2Proof.Machine
end

section
/-! SUPPORT. Runs of the datapath from a command on: LONG against its phases, the flags at the end of a call, and the
call that consults the override unit (`40_dispatch.md` rule R84). -/

namespace Sys2Proof.Machine

/-! ### Runs of the datapath alone -/

/-- `t` has from `s` what no operation of the datapath writes. -/
structure State.KeepsHostState (s t : State) : Prop where
  inMem : t.inMem = s.inMem
  secMem : t.secMem = s.secMem
  seed : t.seed = s.seed
  len : t.len = s.len
  secretLen : t.secretLen = s.secretLen
  req : t.req = s.req
  inputs : t.inputs = s.inputs
  cfg : t.cfg = s.cfg

theorem State.KeepsHostState.trans {s t u : State} (h : s.KeepsHostState t) (h' : t.KeepsHostState u) :
    s.KeepsHostState u where
  inMem := h'.inMem.trans h.inMem
  secMem := h'.secMem.trans h.secMem
  seed := h'.seed.trans h.seed
  len := h'.len.trans h.len
  secretLen := h'.secretLen.trans h.secretLen
  req := h'.req.trans h.req
  inputs := h'.inputs.trans h.inputs
  cfg := h'.cfg.trans h.cfg

theorem State.datapath_keepsHostState (s : State) : s.KeepsHostState s.datapath := by
  by_cases hp : s.seq.phase = .seedmix
  · rw [State.datapath_eq (t := s.mixed) hp rfl]
    constructor <;> rfl
  · have hside := Phase.exec_instr_callSideOnly hp (exec_phase_eq_datapath s)
    unfold State.CallSideOnly at hside
    rw [hside]
    constructor <;> rfl

theorem iterate_keepsHostState (s : State) (n : Nat) : s.KeepsHostState (State.datapath^[n] s) := by
  induction n with
  | zero => constructor <;> rfl
  | succ n ih =>
    rw [Function.iterate_succ_apply']
    exact ih.trans (State.datapath_keepsHostState _)

theorem iterate_inv {s : State} (h : s.Inv) (n : Nat) : (State.datapath^[n] s).Inv := by
  induction n with
  | zero => exact h
  | succ n ih =>
    rw [Function.iterate_succ_apply']
    exact exec_phase_inv ih (exec_phase_eq_datapath _)

/-- With no move of the outside world to come, a run is the datapath's. -/
theorem run_of_no_inputs {s : State} (hi : s.inputs = []) (n : Nat) : run n s = .next (State.datapath^[n] s) := by
  induction n generalizing s with
  | zero => rfl
  | succ n ih =>
    rw [run_succ_of_step ((step_of_no_inputs s hi).trans (exec_phase_eq_datapath s))]
    exact ih (s.datapath_keepsHostState.inputs.trans hi)

/-- LONG leaves what the phases leave, where the bucket is recorded. -/
theorem execLong_eq {s : State} (h : s.status.bucket = some .long) :
    execLong s = .next (s.longMerged.deliver (aval3 s.longMerged.pre)) := by
  have hstatus : { s.status with bucket := some .long } = s.status := by rw [← h]
  simp only [execLong, hstatus]
  rfl

/-! ### The flags of a call that does not consult the unit -/

/-- `t` has from `s` what controls a call (the sequencer, the flags, the request, the parameters), whatever it holds in
the memories, the lanes, the results and the override port. -/
def State.SameControl (s t : State) : Prop :=
  t = { s with
    result := t.result, hex := t.hex, acc := t.acc, pre := t.pre, inMem := t.inMem, secMem := t.secMem
    esecMem := t.esecMem, ovr := t.ovr, answer := t.answer }

theorem State.SameControl.seq {s t : State} (h : s.SameControl t) : t.seq = s.seq := by
  unfold State.SameControl at h
  rw [h]

theorem State.SameControl.status {s t : State} (h : s.SameControl t) : t.status = s.status := by
  unfold State.SameControl at h
  rw [h]

/-- In a state that fits its phase, a call without the unit is sequenced by its control alone. -/
theorem exec_phase_sameControl {s t : State} (h : s.SameControl t) (hok : s.phaseOk)
    (hunit : s.req.consultsUnit = false) :
    ∃ s' t', exec s.seq.phase.instr s = .next s' ∧ exec s.seq.phase.instr t = .next t' ∧ s'.SameControl t' := by
  obtain ⟨result, hex, acc, pre, inMem, secMem, esecMem, ovr, answer, rfl⟩ :
      ∃ result hex acc pre inMem secMem esecMem ovr answer,
        t = { s with result, hex, acc, pre, inMem, secMem, esecMem, ovr, answer } :=
    ⟨_, _, _, _, _, _, _, _, _, h⟩
  unfold State.phaseOk at hok
  cases hp : s.seq.phase <;> rw [hp] at hok
  case check =>
    simp only [Phase.instr, exec, execCheck]
    split
    · exact ⟨_, _, rfl, rfl, rfl⟩
    · split <;> exact ⟨_, _, rfl, rfl, rfl⟩
  case short => exact ⟨_, _, execShort_of_short hok.2, execShort_of_short (by exact hok.2), rfl⟩
  case ovrWait => cases hok.2.symm.trans hunit
  case stripe =>
    by_cases hnext : s.seq.str.toNat + 1 < s.geometry.nspb
    · exact ⟨_, _, if_pos hnext, if_pos hnext, rfl⟩
    · exact ⟨_, _, if_neg hnext, if_neg hnext, rfl⟩
  case tail =>
    by_cases hnext : s.seq.str.toNat + 1 < s.geometry.nst
    · exact ⟨_, _, if_pos hnext, if_pos hnext, rfl⟩
    · exact ⟨_, _, if_neg hnext, if_neg hnext, rfl⟩
  case final =>
    exact ⟨_, _, execFinal_of_not_consulted hunit, execFinal_of_not_consulted (by exact hunit), rfl⟩
  all_goals exact ⟨_, _, rfl, rfl, rfl⟩

theorem iterate_sameControl {s t : State} (h : s.SameControl t) (hinv : s.Inv) (hunit : s.req.consultsUnit = false)
    (n : Nat) : (State.datapath^[n] s).SameControl (State.datapath^[n] t) := by
  induction n with
  | zero => exact h
  | succ n ih =>
    obtain ⟨s', t', hs, ht, hnext⟩ := exec_phase_sameControl ih (iterate_inv hinv n).phase
      ((iterate_keepsHostState s n).req ▸ hunit)
    rw [Function.iterate_succ_apply', Function.iterate_succ_apply', State.datapath_eq rfl hs,
      State.datapath_eq (congrArg Sequencer.phase ih.seq) ht]
    exact hnext

theorem State.Inv.status_of_done {s : State} (h : s.Inv) (hdone : s.seq.phase = .done)
    (hunit : s.req.consultsUnit = false) :
    s.status =
      { err := .none, bucket := some s.req.bucket, ovrUsed := false, hexValid := decide (s.req.op = .hashHex) } := by
  have herr : s.status.err = .none := by_contra fun hne => by simpa [hdone] using h.err.1 hne
  have hbucket : s.status.bucket = some s.req.bucket := by rw [h.bucket, hdone]; rfl
  have hused : s.status.ovrUsed = false := by simpa [hunit] using h.ovrUsed
  have hvalid : s.status.hexValid = decide (s.req.op = .hashHex) := by
    rw [Bool.eq_iff_iff, h.hexValid, decide_eq_true_eq]
    simp [hdone]
  rw [← herr, ← hbucket, ← hused, ← hvalid]

/-- `s` with empty memories and an empty override port. -/
def State.bare (s : State) : State := { s with inMem := [], secMem := [], esecMem := [], ovr := none, answer := none }

/-- The flags at the end of a call without the unit, whatever the memories and the port held at its start. -/
theorem iterate_status_of_done {s : State} (hinv : s.bare.Inv) (hunit : s.req.consultsUnit = false) {n : Nat}
    (hdone : (State.datapath^[n] s).seq.phase = .done) :
    (State.datapath^[n] s).status =
      { err := .none, bucket := some s.req.bucket, ovrUsed := false, hexValid := decide (s.req.op = .hashHex) } := by
  have hbare : s.bare.SameControl s := rfl
  have hsame := iterate_sameControl hbare hinv hunit n
  have hreq : (State.datapath^[n] s.bare).req = s.req := (iterate_keepsHostState s.bare n).req
  rw [hsame.seq] at hdone
  rw [hsame.status, (iterate_inv hinv n).status_of_done hdone (hreq ▸ hunit), hreq]

/-! ### The call a command starts -/

/-- `s` once a command has started its call. -/
def State.commanded (s : State) (hex secretEn ovrEn : Bool) : State :=
  State.startCall { s with cmd := { op := if hex then .hashHex else .hash, secretEn, ovrEn, inNull := false } }

theorem exec_command_of_ready {s : State} {secretEn : Bool} (h : Reference.ready s secretEn) (hex ovrEn : Bool) :
    exec (Reference.command hex secretEn ovrEn false) s = .next (s.commanded hex secretEn ovrEn) :=
  (exec_command hex secretEn ovrEn false s).trans
    (s.commandWrite_start _ ((Phase.stateCode_ne_one_iff _).1 h.1) fun ⟨hen, hlt⟩ => Nat.not_le.2 hlt (h.2 hen))

theorem State.commanded_accepted {s : State} {secretEn : Bool} (h : secretEn = true → 136 ≤ s.secretLen.toNat)
    (hex ovrEn : Bool) : (s.commanded hex secretEn ovrEn).req.accepted = true := by
  cases secretEn
  · rfl
  · have hlen : ¬s.secretLen.toNat < secretMin := Nat.not_lt.2 (h rfl)
    simp [Request.accepted, State.commanded, hlen]

theorem State.bare_commanded_inv (s : State) (hex secretEn ovrEn : Bool) :
    (s.commanded hex secretEn ovrEn).bare.Inv :=
  State.inv_of_plainStatus rfl rfl ⟨Memory.wf_nil, Memory.wf_nil, Memory.wf_nil⟩ trivial (fun _ ho => nomatch ho)
    fun ha => absurd rfl ha

/-! ### A call that consults the unit -/

/-- A call that consults the unit comes to OVR_WAIT with its secret derived and the lanes untouched. -/
theorem exists_ovrWait {s : State} (hp : s.seq.phase = .check) (hacc : s.req.accepted = true)
    (hunit : s.req.consultsUnit = true) :
    ∃ n d, n ≤ 3 ∧ State.datapath^[n] s = d ∧ d.seq.phase = .ovrWait ∧ d.SecretDerived ∧ d.ovr = s.ovr ∧
      d.acc = s.acc ∧ d.pre = s.pre ∧ d.answer = s.answer := by
  obtain ⟨hen, hb⟩ := s.req.consultsUnit_iff.1 hunit
  have hdispatched := iterate_check hp hacc
  obtain ⟨hne, -⟩ | ⟨-, hmix, hq⟩ | ⟨-, hmix, hq⟩ := s.dispatchTarget_cases
  · exact absurd hb hne
  · have hseedmix : State.datapath^[3] s = s.dispatched.mixed :=
      (iterate_datapath_add hdispatched 1).trans (State.datapath_eq (s := s.dispatched) hq rfl)
    have hderived : s.dispatched.mixed.SecretDerived := by
      refine State.secretDerived_of_mix hmix (m := s.esecMem) ?_
      rw [State.mixed, s.dispatched.space_mixSource]
      rfl
    exact ⟨3, _, le_rfl, hseedmix, if_pos hen, hderived, rfl, rfl, rfl, rfl⟩
  · exact ⟨2, _, by decide, hdispatched, hq.trans (if_pos hen), State.secretDerived_of_not_mix hmix, rfl,
      rfl, rfl, rfl⟩

/-- Such a call asks the unit one step later. -/
theorem exists_asked {s : State} (hp : s.seq.phase = .check) (hacc : s.req.accepted = true)
    (hunit : s.req.consultsUnit = true) (hovr : s.ovr = none) :
    ∃ n d, n ≤ 4 ∧ State.datapath^[n] s = d.issueOverride ∧ s.KeepsHostState d ∧ d.SecretDerived ∧
      d.acc = s.acc ∧ d.pre = s.pre ∧ d.answer = s.answer := by
  obtain ⟨n, d, hn, hrun, hwait, hderived, hport, hlanes, hpre, hans⟩ := exists_ovrWait hp hacc hunit
  have hask : d.datapath = d.issueOverride :=
    State.datapath_eq hwait (congrArg _ (State.overrideCall_of_no_request (hport.trans hovr)))
  refine ⟨n + 1, d, by omega, ?_, hrun ▸ iterate_keepsHostState s n, hderived, hlanes, hpre, hans⟩
  rw [Function.iterate_succ_apply', hrun, hask]

/-- The bytes of a derived secret follow from what no operation of the datapath writes. -/
theorem State.SecretDerived.of_keepsHostState {s d : State} (h : d.SecretDerived) (hkeeps : s.KeepsHostState d) :
    AgreeBelow d.effectiveLen d.effectiveSecret (effectiveBytes s.cfg s.secMem.read s.req) := by
  rw [← hkeeps.cfg, ← hkeeps.secMem, ← hkeeps.req]
  exact h

@[simp] theorem State.finished_acc (s : State) (v : U64) : (s.finished v).acc = s.acc := by
  unfold State.finished
  cases s.req.op <;> rfl

@[simp] theorem State.finished_pre (s : State) (v : U64) : (s.finished v).pre = s.pre := by
  unfold State.finished
  cases s.req.op <;> rfl

@[simp] theorem State.finished_ovr (s : State) (v : U64) : (s.finished v).ovr = s.ovr := by
  unfold State.finished
  cases s.req.op <;> rfl

/-- From the answer's arrival a waiting call ends within three steps. -/
theorem exists_run_of_answer {s : State} {o : OvrRequest} (hp : s.seq.phase = .ovrWait) (hovr : s.ovr = some o)
    (hans : s.answer = none) (hi : s.inputs = []) (v : U64) :
    ∃ m, m ≤ 3 ∧ run m { s with inputs := [.answer v] } = .next (s.answered.finished v) := by
  obtain ⟨m, hm, hfinish⟩ := exists_finished s.answered v
  have harrive : step { s with inputs := [.answer v] } = .next { s with answer := some v } :=
    (step_answer (rest := []) (r := s.rdata) hovr hans v).trans (by rw [State.withPort, ← hi])
  have haccept : { s with answer := some v }.datapath = s.answered.deliver v :=
    State.datapath_eq (s := { s with answer := some v }) (p := .ovrWait) hp
      ((exec_of_request (by simp [hovr]) (.inl rfl)).trans (congrArg _ (State.takeAnswer_of_answer hovr rfl)))
  refine ⟨m + 1 + 1, by omega, ?_⟩
  rw [run_succ_of_step harrive, run_of_no_inputs (by exact hi), Function.iterate_succ_apply, haccept, hfinish]

end Sys2Proof.Machine
end

section
/-! PROOFS. The statements about sequencing, the lanes, the override and whole calls. -/

namespace Sys2Proof.Proofs

open Sys2Proof.Machine

/-- Settles O21: the datapath enters the error state by CHECK alone, and any other move leaves the phase, starts a call
or resets. -/
theorem errIsEnteredOnlyFromCheck : Obligations.ErrIsEnteredOnlyFromCheck := by
  intro s t h ht hs
  cases hi : s.inputs with
  | nil => exact exec_phase_failsWith ((step_of_no_inputs s hi).symm.trans h) ht hs
  | cons i rest =>
    rw [step_of_input s i rest hi] at h
    by_cases hdatapath : i = .datapath
    · subst hdatapath
      exact exec_phase_failsWith (s := { s with inputs := rest }) ((runCode_phaseCode _ _).symm.trans h) ht hs
    · rcases deliverInput_phase hdatapath h with hphase | hphase | hphase
      · exact absurd (hphase.symm.trans ht) hs
      all_goals cases hphase.symm.trans ht

/-- Settles O23, by the cases of the dispatcher's target. -/
theorem dispatchChoosesBucketAndPhase : Obligations.DispatchChoosesBucketAndPhase := by
  intro s
  refine ⟨s.req.bucket, s.dispatchTarget, rfl, s.req.bucketNumber_bucket, fun hshort => ?_,
    fun hlong hseed hpolicy => ?_, fun hlong hplain => ?_⟩
  · rcases s.dispatchTarget_cases with ⟨-, hq⟩ | ⟨hb, -⟩ | ⟨hb, -⟩
    · exact hq
    all_goals exact absurd (s.req.bucket_eq_long_iff.1 hb) (Nat.not_lt.2 hshort)
  all_goals rcases s.dispatchTarget_cases with ⟨hb, -⟩ | ⟨-, hmix, hq⟩ | ⟨-, hmix, hq⟩
  · exact absurd (s.req.bucket_eq_long_iff.2 hlong) hb
  · exact hq
  · cases hmix.symm.trans (Request.mix_eq_true_iff.2 ⟨hseed, hpolicy⟩)
  · exact absurd (s.req.bucket_eq_long_iff.2 hlong) hb
  · cases hmix.symm.trans (Request.mix_eq_false_iff.2 hplain)
  · exact hq

/-- Settles O32: with a seed both calls read the default table. -/
theorem seededShortCallIgnoresCustomSecret : Obligations.SeededShortCallIgnoresCustomSecret := by
  intro s m secretEn secretLen hseed hshort
  have hb : s.req.bucket ≠ .long := fun hb => absurd (s.req.bucket_eq_long_iff.1 hb) (Nat.not_lt.2 hshort)
  refine ⟨_, execShort_of_short hb, (execShort_of_short (by exact hb)).trans ?_⟩
  rw [State.shortSecret_of_seed hseed, State.shortSecret_of_seed (by exact hseed)]
  rfl

/-- Settles O39: each phase is one `accumulate`, whose lanes are those of R107. -/
theorem stripePhasesAccumulate : Obligations.StripePhasesAccumulate := by
  intro s _ _
  rw [s.secret_eq]
  refine ⟨fun _ hstr => ?_, fun hstr => ?_, _, rfl, lanes_accumulate _ _ _ _ _⟩
  · obtain ⟨str, hexec, hnext⟩ := execStripe_eq hstr
    exact ⟨_, str, hexec, hnext, lanes_accumulate _ _ _ _ _⟩
  · obtain ⟨str, hexec, hnext⟩ := execTail_eq hstr
    exact ⟨_, str, hexec, hnext, lanes_accumulate _ _ _ _ _⟩

/-- Settles O40: the phase is one `scrambleLanes`, whose lanes are those of R108, and the counter does not overflow. -/
theorem scrambleMixesEveryLane : Obligations.ScrambleMixesEveryLane := by
  intro s _ _ hblk
  rw [s.secret_eq] at hblk ⊢
  refine ⟨_, s.seq.blk + 1, ?_, toNat_add_one hblk s.nblk_lt, lanes_scrambleLanes _ _ _⟩
  have hphase : (if 0 < s.geometry.nst then Phase.tail else .last) =
      if Reference.nst s.req.len.toNat s.effectiveLen = 0 then .last else .tail := by
    simp only [Nat.pos_iff_ne_zero, ne_eq, ite_not]
    rfl
  rw [← hphase]
  rfl

/-- Settles O45: the invariant has recorded the bucket, so LONG leaves what `iterate_long` says of the phases. -/
theorem longEqualsItsPhases : Obligations.LongEqualsItsPhases := by
  intro s hinv hp hi
  have hok := hinv.phase
  rw [State.phaseOk, hp] at hok
  obtain ⟨hacc, hb, hen⟩ := hok
  have hbucket : s.status.bucket = some .long := by rw [hinv.bucket, hp, hb]; rfl
  exact ⟨_, execLong_eq hbucket, (run_of_no_inputs hi _).trans (congrArg _ (iterate_long hp hacc hb hen))⟩

/-- Settles O51: the port issues, takes the answer or waits, and the view it shows is the effective secret. -/
theorem overridePortTransitions : Obligations.OverridePortTransitions := by
  intro s
  refine ⟨fun hfree => ⟨s.req.effectiveSecret s.cfg, s.secret_eq.symm, fun i hi => ?_⟩, fun o v ho ha i hi => ?_,
    fun ho ha i hi => ?_, fun hfree => congrArg _ (State.takeAnswer_of_unanswered (.inl hfree))⟩
  · have hissue := State.overrideCall_of_no_request hfree
    rcases hi with rfl | rfl <;> exact congrArg _ hissue
  · rw [exec_of_request (by simp [ho]) hi, State.takeAnswer_of_answer ho ha, ← s.afterResult_eq]
    rfl
  · rw [exec_of_request ho hi, State.takeAnswer_of_unanswered (.inr ha)]

/-- Settles O52: the call comes to OVR_WAIT with its secret derived and asks there, and the answer ends it. -/
theorem overrideAnswerIsTheResult : Obligations.OverrideAnswerIsTheResult := by
  intro s hex secretEn hinv hready hi hlong hsecret
  have hbusy := (Phase.stateCode_ne_one_iff _).1 hready.1
  have hfree : s.ovr = none := hinv.ovr_eq_none fun hp => by rw [hp] at hbusy; cases hbusy
  have hbucket : (s.commanded hex secretEn true).req.bucket = .long := Request.bucket_of_long hlong
  obtain ⟨n, d, hn, hask, hkeeps, hderived, hlanes, hpre, hans⟩ := exists_asked rfl
    (State.commanded_accepted hsecret hex true) ((Request.consultsUnit_iff _).2 ⟨rfl, hbucket⟩) hfree
  have hcall : (s.commanded hex secretEn true).Inv := hinv.startCall hbusy _
  have hasked : d.issueOverride.Inv := hask ▸ iterate_inv hcall n
  have hreq := hkeeps.req
  refine ⟨_, n, d.issueOverride, _, exec_command_of_ready hready hex true, hn,
    (run_of_no_inputs (s := s.commanded hex secretEn true) hi n).trans (congrArg _ hask), rfl, rfl,
    congrArg Request.len hreq, congrArg Request.seed hreq, hderived.of_keepsHostState hkeeps, ?_, fun v => ?_⟩
  · rw [hreq, hkeeps.cfg]
    rfl
  · obtain ⟨m, hm, hend⟩ := exists_run_of_answer (s := d.issueOverride) rfl rfl
      (hans.trans (hinv.answer_eq_none hfree)) (hkeeps.inputs.trans hi) v
    have hop := congrArg Request.op hreq
    exact ⟨m, _, hm, hend, State.finished_phase _ _, State.finished_result _ _,
      statusWord_answered hasked rfl (hreq ▸ hbucket) hop v,
      fun hhex => (State.finished_of_hashHex (s := d.issueOverride.answered) (hop.trans (if_pos hhex)) v).2,
      (State.finished_acc _ _).trans hlanes, (State.finished_pre _ _).trans hpre, State.finished_ovr _ _⟩

/-- Settles O58, the congruence of `callResult`. -/
theorem resultDependsOnTheRequestAlone : Obligations.ResultDependsOnTheRequestAlone :=
  fun _ _ _ _ _ _ hacc hi hs => callResult_congr hacc hi hs

/-- Settles O59: the datapath's run from the command ends with the hash, its flags follow from its control alone, and it
writes nothing of the host's. -/
theorem callComputesTheHash : Obligations.CallComputesTheHash := by
  intro s hex secretEn ovrEn hready hi hsecret hovr
  have hunit : (s.commanded hex secretEn ovrEn).req.consultsUnit = false := by
    rw [← Bool.not_eq_true, Request.consultsUnit_iff, Request.bucket_eq_long_iff]
    exact fun ⟨hen, hlong⟩ => Nat.not_le.2 hlong (hovr hen)
  obtain ⟨n, hn, u, hu, hrun⟩ :=
    exists_finished_of_check rfl (State.commanded_accepted hsecret hex ovrEn) hunit
  have hdone := (congrArg (·.seq.phase) hrun).trans (u.finished_phase _)
  have hstatus := iterate_status_of_done (s.bare_commanded_inv hex secretEn ovrEn) hunit hdone
  have hword : (statusWord (State.datapath^[n] (s.commanded hex secretEn ovrEn))).toNat =
      2 + 2 ^ 4 * Reference.bucketCode s.len.toNat + 2 ^ 8 * hex.toNat := by
    have hbucket : Reference.bucketNumber (some (s.commanded hex secretEn ovrEn).req.bucket) =
        Reference.bucketCode s.len.toNat := Request.bucketNumber_bucket _
    have hvalid : decide ((s.commanded hex secretEn ovrEn).req.op = .hashHex) = hex := by cases hex <;> rfl
    rw [statusWordLayout, hstatus, hdone, hvalid, hbucket]
    simp [Reference.stateCode, Phase.code, Reference.errNumber]
  have hhost := iterate_keepsHostState (s.commanded hex secretEn ovrEn) n
  refine ⟨_, n, _, exec_command_of_ready hready hex ovrEn, hn,
    run_of_no_inputs (s := s.commanded hex secretEn ovrEn) hi n, hdone, ?_, fun hhex => ?_, hword,
    hhost.inMem, hhost.secMem, hhost.seed, hhost.len, hhost.secretLen⟩
  · rw [hrun]
    exact u.finished_result _
  · rw [hrun, u.finished_result]
    exact (State.finished_of_hashHex (hu ▸ if_pos hhex) _).2

/-- Settles O22: a step of a waiting phase leaves the state, so a run does. -/
theorem waitingPhasesDoNothing : Obligations.WaitingPhasesDoNothing := fun s =>
  ⟨rfl, rfl, rfl, fun hwait hi => run_of_step_self ((step_of_no_inputs s hi).trans
    (exec_instr_of_not_busy ((Phase.stateCode_ne_one_iff _).1 hwait) s))⟩

end Sys2Proof.Proofs
end

section
/-! SUPPORT. The short buckets: each formula of `41_short.md` against its formula in `Reference`, and the run of a short
call from SHORT to its result. -/

namespace Sys2Proof.Machine

/-! ### Primitives (`00_scope.md` rules R6 to R14) -/

@[simp] theorem toNat_le32 (b : Bytes) (off : Nat) : (le32 b off).toNat = Reference.le b off 4 := by
  rw [le_eq_leNat, le32, BitVec.toNat_ofNat, Nat.mod_eq_of_lt (leNat_lt b off 4)]

@[simp] theorem toNat_add64 (a b : U64) : (add64 a b).toNat = Reference.add a.toNat b.toNat := BitVec.toNat_add a b

@[simp] theorem toNat_sub64 (a b : U64) : (sub64 a b).toNat = Reference.sub a.toNat b.toNat := by
  rw [sub64, BitVec.toNat_sub, Nat.add_comm, Reference.sub]

@[simp] theorem toNat_mulFold (a b : U64) : (mulFold a b).toNat = Reference.fold a.toNat b.toNat := by
  have hlt : a.toNat * b.toNat < 2 ^ 128 := (Nat.mul_lt_mul'' a.isLt b.isLt).trans_eq (by norm_num)
  have hproduct : (a.setWidth 128 * b.setWidth 128).toNat = a.toNat * b.toNat := by
    rw [BitVec.toNat_mul, BitVec.toNat_setWidth_of_le (by decide), BitVec.toNat_setWidth_of_le (by decide),
      Nat.mod_eq_of_lt hlt]
  rw [mulFold, BitVec.toNat_xor, toNat_extractLsb', toNat_extractLsb', hproduct, Nat.pow_zero, Nat.div_one,
    Nat.mod_eq_of_lt (a := _ / _) (by omega), Reference.fold]

@[simp] theorem toNat_rotl64 (v : U64) (r : Nat) : (rotl64 v r).toNat = Reference.rotl v.toNat r := by
  rw [rotl64, BitVec.toNat_or, BitVec.toNat_shiftLeft, BitVec.toNat_ushiftRight, Nat.shiftLeft_eq,
    Nat.shiftRight_eq_div_pow, Reference.rotl]

@[simp] theorem toNat_swap32 (v : U32) : (swap32 v).toNat = Reference.swap 4 v.toNat := by
  simp only [swap32, toNat_append_eq_add, toNat_extractLsb', Reference.swap, Finset.sum_range_succ,
    Finset.sum_range_zero, Nat.reducePow, Nat.reduceMul, Nat.reduceSub]
  omega

/-- The low half's bytes go to the high half, each half turned round. -/
theorem swap_eq_halves (v : Nat) :
    Reference.swap 8 v = 2 ^ 32 * Reference.swap 4 (v % 2 ^ 32) + Reference.swap 4 (v / 2 ^ 32) := by
  have hlow (k : Nat) (hk : k < 4) :
      2 ^ (8 * (8 - 1 - k)) * (v / 2 ^ (8 * k) % 2 ^ 8) =
        2 ^ 32 * (2 ^ (8 * (4 - 1 - k)) * (v % 2 ^ 32 / 2 ^ (8 * k) % 2 ^ 8)) := by
    interval_cases k <;> omega
  have hhigh (k : Nat) (hk : k < 4) :
      2 ^ (8 * (8 - 1 - (4 + k))) * (v / 2 ^ (8 * (4 + k)) % 2 ^ 8) =
        2 ^ (8 * (4 - 1 - k)) * (v / 2 ^ 32 / 2 ^ (8 * k) % 2 ^ 8) := by
    interval_cases k <;> omega
  rw [Reference.swap, Finset.sum_range_add _ 4 4, Finset.sum_congr rfl fun k hk => hlow k (Finset.mem_range.1 hk),
    Finset.sum_congr rfl fun k hk => hhigh k (Finset.mem_range.1 hk), ← Finset.mul_sum]
  rfl

@[simp] theorem toNat_swap64 (v : U64) : (swap64 v).toNat = Reference.swap 8 v.toNat := by
  rw [swap64, toNat_append_eq_add, toNat_swap32, toNat_swap32, toNat_low32, toNat_high32, swap_eq_halves]

/-- Two fields that do not overlap add up. -/
theorem toNat_shiftLeft_or {n k a b : Nat} {x y : BitVec n} (hx : x.toNat = a) (hy : y.toNat = b)
    (ha : a * 2 ^ k < 2 ^ n) (hb : b < 2 ^ k) : (x <<< k ||| y).toNat = 2 ^ k * a + b := by
  subst hx hy
  rw [BitVec.toNat_or, BitVec.toNat_shiftLeft, Nat.shiftLeft_eq, Nat.mod_eq_of_lt ha, Nat.mul_comm,
    ← Nat.two_pow_add_eq_or_of_lt hb]

/-! ### Final mixers (`44_finalizer.md` rules R135 to R137) -/

@[simp] theorem toNat_aval64 (h : U64) : (aval64 h).toNat = Reference.aval64 h.toNat := by
  simp only [aval64, toNat_xorShift, toNat_mul64]
  rfl

@[simp] theorem toNat_aval3 (h : U64) : (aval3 h).toNat = Reference.aval3 h.toNat := by
  simp only [aval3, toNat_xorShift, toNat_mul64]
  rfl

@[simp] theorem toNat_rrmxmx (h n : U64) : (rrmxmx h n).toNat = Reference.rrmxmx h.toNat n.toNat := by
  simp only [rrmxmx, toNat_xorShift, toNat_mul64, toNat_add64, BitVec.toNat_xor, toNat_rotl64,
    BitVec.toNat_ushiftRight, Nat.shiftRight_eq_div_pow]
  rfl

/-! ### Pre-final values (`41_short.md`) -/

theorem toNat_pre0 (sec : Bytes) (seed : U64) : (pre0 sec seed).toNat = Reference.pre0 sec seed.toNat := by
  simp only [pre0, BitVec.toNat_xor, toNat_le64, Reference.pre0]

/-- The four bytes of `combined` (R92), from the highest to the lowest: middle, first, `L`, last. -/
theorem toNat_combined1_3 (inp : Bytes) {len : U64} (hlen : len.toNat ≤ 3) :
    (combined1_3 inp len).toNat =
      2 ^ 24 * (inp (len.toNat / 2)).toNat + 2 ^ 16 * (inp 0).toNat + 2 ^ 8 * len.toNat +
        (inp (len.toNat - 1)).toNat := by
  have hfields : combined1_3 inp len =
      (inp (len.toNat / 2)).setWidth 32 <<< 24 |||
        ((inp 0).setWidth 32 <<< 16 ||| (len.setWidth 32 <<< 8 ||| (inp (len.toNat - 1)).setWidth 32)) := by
    simp only [combined1_3]
    rw [BitVec.or_assoc, BitVec.or_comm ((inp 0).setWidth 32 <<< 16), BitVec.or_assoc,
      BitVec.or_comm ((inp (len.toNat - 1)).setWidth 32)]
  have hbyte (b : Byte) : (b.setWidth 32).toNat = b.toNat := BitVec.toNat_setWidth_of_le (by decide)
  have hlength : (len.setWidth 32).toNat = len.toNat := by
    rw [BitVec.toNat_setWidth, Nat.mod_eq_of_lt (by omega)]
  have hmiddle := (inp (len.toNat / 2)).isLt
  have hfirst := (inp 0).isLt
  have hlast := (inp (len.toNat - 1)).isLt
  rw [hfields, Nat.add_assoc, Nat.add_assoc]
  refine toNat_shiftLeft_or (hbyte _)
    (toNat_shiftLeft_or (hbyte _) (toNat_shiftLeft_or hlength (hbyte _) ?_ ?_) ?_ ?_) ?_ ?_
  all_goals omega

theorem toNat_pre1_3 (inp sec : Bytes) {len : U64} (hlen : len.toNat ≤ 3) (seed : U64) :
    (pre1_3 inp sec len seed).toNat = Reference.pre1_3 inp sec len.toNat seed.toNat := by
  rw [pre1_3, BitVec.toNat_xor, toNat_add64, BitVec.toNat_setWidth_of_le (by decide),
    BitVec.toNat_setWidth_of_le (by decide), toNat_combined1_3 inp hlen, BitVec.toNat_xor, toNat_le32, toNat_le32,
    Reference.pre1_3]

/-- A 32-bit value in the high half of a word. -/
theorem toNat_highHalf (v : U32) : (v.setWidth 64 <<< 32).toNat = 2 ^ 32 * v.toNat := by
  have hv := v.isLt
  rw [BitVec.toNat_shiftLeft, BitVec.toNat_setWidth_of_le (by decide), Nat.shiftLeft_eq, Nat.mod_eq_of_lt (by omega),
    Nat.mul_comm]

theorem toNat_pre4_8 (inp sec : Bytes) (len seed : U64) :
    (pre4_8 inp sec len seed).toNat = Reference.pre4_8 inp sec len.toNat seed.toNat := by
  have hwords : (add64 ((le32 inp (len.toNat - 4)).setWidth 64) ((le32 inp 0).setWidth 64 <<< 32)).toNat =
      Reference.le inp (len.toNat - 4) 4 + 2 ^ 32 * Reference.le inp 0 4 := by
    have hfirst := (le32 inp 0).isLt
    have hlast := (le32 inp (len.toNat - 4)).isLt
    rw [toNat_add64, toNat_highHalf, BitVec.toNat_setWidth_of_le (by decide), Reference.add,
      Nat.mod_eq_of_lt (by omega), toNat_le32, toNat_le32]
  simp only [pre4_8, BitVec.toNat_xor, hwords, toNat_sub64, toNat_le64, toNat_highHalf, toNat_swap32, toNat_low32,
    Reference.pre4_8]

theorem toNat_pre9_16 (inp sec : Bytes) (len seed : U64) :
    (pre9_16 inp sec len seed).toNat = Reference.pre9_16 inp sec len.toNat seed.toNat := by
  simp only [pre9_16, toNat_add64, toNat_swap64, toNat_mulFold, BitVec.toNat_xor, toNat_sub64, toNat_le64,
    Reference.pre9_16]
  simp only [Reference.add, Nat.mod_add_mod]

@[simp] theorem toNat_mix16 (inp sec : Bytes) (seed : U64) (io so : Nat) :
    (mix16 inp sec seed io so).toNat = Reference.mix16 inp sec seed.toNat io so := by
  simp only [mix16, toNat_mulFold, BitVec.toNat_xor, toNat_add64, toNat_sub64, toNat_le64, Reference.mix16]

/-- A loop whose round `i` adds `g i` modulo `2^64` adds the sum of the rounds. -/
theorem toNat_foldl_of_adds {f : U64 → Nat → U64} {g : Nat → Nat}
    (hround : ∀ acc i, (f acc i).toNat = (acc.toNat + g i) % 2 ^ 64) (acc : U64) (n : Nat) :
    ((List.range n).foldl f acc).toNat = (acc.toNat + ∑ i ∈ Finset.range n, g i) % 2 ^ 64 := by
  induction n with
  | zero => exact (Nat.mod_eq_of_lt acc.isLt).symm
  | succ n ih =>
    rw [List.range_succ, List.foldl_append, List.foldl_cons, List.foldl_nil, hround, ih, Nat.mod_add_mod,
      Finset.sum_range_succ, Nat.add_assoc]

theorem toNat_pre17_128 (inp sec : Bytes) (len seed : U64) :
    (pre17_128 inp sec len seed).toNat = Reference.pre17_128 inp sec len.toNat seed.toNat := by
  have hround (acc : U64) (i : Nat) :
      (add64 (add64 acc (mix16 inp sec seed (16 * i) (32 * i)))
          (mix16 inp sec seed (len.toNat - 16 * (i + 1)) (32 * i + 16))).toNat =
        (acc.toNat + (Reference.mix16 inp sec seed.toNat (16 * i) (32 * i) +
          Reference.mix16 inp sec seed.toNat (len.toNat - 16 * (i + 1)) (32 * i + 16))) % 2 ^ 64 := by
    simp only [toNat_add64, toNat_mix16, Reference.add, Nat.mod_add_mod, Nat.add_assoc]
  rw [pre17_128, toNat_foldl_of_adds hround, toNat_mul64, Reference.mul, Nat.mod_add_mod]
  rfl

theorem toNat_front129_240 (inp sec : Bytes) (len seed : U64) :
    (front129_240 inp sec len seed).toNat =
      (len.toNat * 0x9E3779B185EBCA87 +
        ∑ i ∈ Finset.range 8, Reference.mix16 inp sec seed.toNat (16 * i) (16 * i)) % 2 ^ 64 := by
  have hround (acc : U64) (i : Nat) : (add64 acc (mix16 inp sec seed (16 * i) (16 * i))).toNat =
      (acc.toNat + Reference.mix16 inp sec seed.toNat (16 * i) (16 * i)) % 2 ^ 64 := by
    rw [toNat_add64, toNat_mix16, Reference.add]
  rw [front129_240, toNat_foldl_of_adds hround, toNat_mul64, Reference.mul, Nat.mod_add_mod]
  rfl

theorem toNat_pre129_240 (inp sec : Bytes) (len seed : U64) :
    (pre129_240 inp sec len seed).toNat = Reference.pre129_240 inp sec len.toNat seed.toNat := by
  have hround (acc : U64) (j : Nat) : (add64 acc (mix16 inp sec seed (16 * (j + 8)) (16 * j + 3))).toNat =
      (acc.toNat + Reference.mix16 inp sec seed.toNat (16 * (8 + j)) (16 * (8 + j - 8) + 3)) % 2 ^ 64 := by
    rw [toNat_add64, toNat_mix16, Reference.add, Nat.add_comm j, Nat.add_sub_cancel_left]
  simp only [pre129_240, toNat_add64, toNat_foldl_of_adds hround, toNat_aval3, toNat_front129_240, toNat_mix16,
    Reference.pre129_240, Finset.sum_Ico_eq_sum_range, Reference.add, Nat.mod_add_mod]

/-! ### The seeded formula and the derived table (R96) -/

/-- At an even lane, seeding the secret words is deriving them. -/
theorem mix16_seedMixBytes (inp src : Bytes) {n k : Nat} (hk : 2 * k + 1 < n / 8) (seed : U64) (io : Nat) :
    mix16 inp src seed io (16 * k) = mix16 inp (fun j => (seedMixBytes src n seed).getD j 0) 0 io (16 * k) := by
  have heven := le64_seedMixBytes src n seed (2 * k) (by omega)
  have hodd := le64_seedMixBytes src n seed (2 * k + 1) hk
  rw [seedLane, if_pos (by omega), show 8 * (2 * k) = 16 * k by omega] at heven
  rw [seedLane, if_neg (by omega), show 8 * (2 * k + 1) = 16 * k + 8 by omega] at hodd
  simp only [mix16, heven, hodd, add64, sub64, add_zero, sub_zero]

theorem pre17_128_seedMixBytes (inp src : Bytes) (len seed : U64) {n : Nat} (hn : 128 ≤ n) (hlen : 1 ≤ len.toNat)
    (hmax : len.toNat ≤ 128) :
    pre17_128 inp src len seed = pre17_128 inp (fun k => (seedMixBytes src n seed).getD k 0) len 0 := by
  refine List.foldl_ext _ _ _ fun acc i hmem => ?_
  have hround := List.mem_range.1 hmem
  rw [show 32 * i + 16 = 16 * (2 * i + 1) by omega, show 32 * i = 16 * (2 * i) by omega,
    mix16_seedMixBytes inp src (n := n) (by omega), mix16_seedMixBytes inp src (n := n) (by omega)]

/-! ### The run of a short call -/

theorem State.shortSecret_eq (s : State) : Reference.shortSecret s = s.shortSecret := by
  unfold Reference.shortSecret State.shortSecret Request.shortSecret Request.secretInUse
  by_cases hseed : s.req.seed = 0
  · rw [if_neg (not_not.2 hseed), if_pos hseed]
    cases s.req.secretEn <;> rfl
  · rw [if_pos hseed, if_neg hseed]
    rfl

theorem Request.bucket_eq_of_covers {r : Request} {b : Bucket} (h : b.Covers r.len.toNat) : r.bucket = b := by
  unfold Request.bucket bucketOf
  cases b <;> simp only [Bucket.Covers] at h <;> grind

/-- The formula of a bucket's pre-final value (R91 to R97); bucket 6 has none. -/
def Bucket.formula (inp sec : Bytes) (len seed : Nat) : Bucket → Nat
  | .len0 => Reference.pre0 sec seed
  | .len1_3 => Reference.pre1_3 inp sec len seed
  | .len4_8 => Reference.pre4_8 inp sec len seed
  | .len9_16 => Reference.pre9_16 inp sec len seed
  | .len17_128 => Reference.pre17_128 inp sec len seed
  | .len129_240 => Reference.pre129_240 inp sec len seed
  | .long => 0

theorem Request.toNat_shortPre (r : Request) (inp sec : Bytes) :
    (r.shortPre inp sec).toNat = r.bucket.formula inp sec r.len.toNat r.seed.toNat := by
  unfold Request.shortPre
  cases hb : r.bucket with
  | len0 => exact toNat_pre0 sec r.seed
  | len1_3 => exact toNat_pre1_3 inp sec (Request.bucket_covers hb).2 r.seed
  | len4_8 => exact toNat_pre4_8 inp sec r.len r.seed
  | len9_16 => exact toNat_pre9_16 inp sec r.len r.seed
  | len17_128 => exact toNat_pre17_128 inp sec r.len r.seed
  | len129_240 => exact toNat_pre129_240 inp sec r.len r.seed
  | long => rfl

/-- The formula of a bucket's final mixer (`44_finalizer.md` rule R138), the override unit left out. -/
def Bucket.finish (len pre : Nat) : Bucket → Nat
  | .len0 | .len1_3 => Reference.aval64 pre
  | .len4_8 => Reference.rrmxmx pre len
  | .len9_16 | .len17_128 | .len129_240 | .long => Reference.aval3 pre

theorem Request.toNat_mixer_apply {r : Request} (hunit : r.consultsUnit = false) (pre : U64) :
    (r.mixer.apply pre r.len).toNat = r.bucket.finish r.len.toNat pre.toNat := by
  cases hb : r.bucket with
  | len0 | len1_3 => rw [Request.mixer, hb]; exact toNat_aval64 pre
  | len4_8 => rw [Request.mixer, hb]; exact toNat_rrmxmx pre r.len
  | len9_16 | len17_128 | len129_240 => rw [Request.mixer, hb]; exact toNat_aval3 pre
  | long =>
    have hen : r.ovrEn = false := by simpa [Request.consultsUnit, hb] using hunit
    rw [Request.mixer_of_long hb hen]; exact toNat_aval3 pre

/-- SHORT runs the bucket's row, which leaves the pre-final value in `PRE` and nothing else, and FINAL the bucket's
mixer (`41_short.md` rule R90). -/
theorem exists_short_run {s : State} {b : Bucket} (hlen : b.Covers s.req.len.toNat) (hshort : b ≠ .long) :
    ∃ t u, exec (b.row s.req.ovrEn) s = .next t ∧ exec .short s = .next t ∧
      t = { s with pre := t.pre, seq := { s.seq with phase := .final } } ∧
      t.pre.toNat = b.formula s.inMem.read (Reference.shortSecret s) s.req.len.toNat s.req.seed.toNat ∧
      exec .final t = .next u ∧ u.result.toNat = b.finish s.req.len.toNat t.pre.toNat := by
  obtain rfl := Request.bucket_eq_of_covers hlen
  have hrun : exec .short s = .next (s.handOver (s.req.shortPre s.input s.shortSecret)) := execShort_of_short hshort
  have hunit : s.req.consultsUnit = false := by simp [Request.consultsUnit, hshort]
  rw [s.shortSecret_eq]
  exact ⟨_, _, (exec_short_eq_row s).symm.trans hrun, hrun, rfl, s.req.toNat_shortPre _ _,
    execFinal_of_not_consulted (s := s.handOver _) hunit, Request.toNat_mixer_apply hunit _⟩

end Sys2Proof.Machine
end

section
/-! PROOFS. The statements about the short buckets. -/

namespace Sys2Proof.Proofs

open Sys2Proof.Machine

/-- Settles O26, the run of bucket 0. -/
theorem len0Hashes : Obligations.Len0Hashes :=
  fun _ hlen => exists_short_run (b := .len0) hlen (by decide)

/-- Settles O27, the run of bucket 1. -/
theorem len1To3Hashes : Obligations.Len1To3Hashes :=
  fun _ hmin hmax => exists_short_run (b := .len1_3) ⟨hmin, hmax⟩ (by decide)

/-- Settles O28, the run of bucket 2. -/
theorem len4To8Hashes : Obligations.Len4To8Hashes :=
  fun _ hmin hmax => exists_short_run (b := .len4_8) ⟨hmin, hmax⟩ (by decide)

/-- Settles O29, the run of bucket 3. -/
theorem len9To16Hashes : Obligations.Len9To16Hashes :=
  fun _ hmin hmax => exists_short_run (b := .len9_16) ⟨hmin, hmax⟩ (by decide)

/-- Settles O30, the run of bucket 4. -/
theorem len17To128Hashes : Obligations.Len17To128Hashes :=
  fun _ hmin hmax => exists_short_run (b := .len17_128) ⟨hmin, hmax⟩ (by decide)

/-- Settles O31, the run of bucket 5. -/
theorem len129To240Hashes : Obligations.Len129To240Hashes :=
  fun _ hmin hmax => exists_short_run (b := .len129_240) ⟨hmin, hmax⟩ (by decide)

/-- Settles O33: every secret word of the bucket is a whole lane of the table, and its pair begins at an even one. -/
theorem seededBucketFourEqualsMixedTable : Obligations.SeededBucketFourEqualsMixedTable :=
  fun inp len seed hmin hmax => pre17_128_seedMixBytes inp ksecret len seed (by decide) (by omega) hmax

end Sys2Proof.Proofs
end

section
/-! SUPPORT. The long path against its formulas: what the loop counts leave of the input and the secret, and the lanes,
`MERGE` and the composition as numbers (`42_long.md` rules R105 to R113). -/

namespace Sys2Proof.Machine

/-! ### The loop counts (`42_long.md` rule R105) -/

section Geometry

variable {len secretLen : Nat}

theorem geometry_nspb (len secretLen : Nat) : (geometry len secretLen).nspb = (secretLen - 64) / 8 := rfl

theorem geometry_nst (len secretLen : Nat) :
    (geometry len secretLen).nst =
      (len - 1 - (geometry len secretLen).blkLen * (geometry len secretLen).nblk) / 64 := rfl

/-- The stripes left over are fewer than a block's. -/
theorem geometry_nst_lt_nspb (hsecret : 72 ≤ secretLen) :
    (geometry len secretLen).nst < (geometry len secretLen).nspb := by
  have hpos := geometry_nspb_pos (len := len) hsecret
  have hrest : len - 1 - (geometry len secretLen).blkLen * (geometry len secretLen).nblk =
      (len - 1) % (geometry len secretLen).blkLen := (Nat.mod_eq_sub _ _).symm
  rw [geometry_nst, hrest, geometry_blkLen]
  exact Nat.div_lt_of_lt_mul (Nat.mod_lt _ (by omega))

/-- Without a whole block all of the input but its last stripe is the tail's. -/
theorem geometry_nst_of_no_block (h : (geometry len secretLen).nblk = 0) :
    (geometry len secretLen).nst = (len - 1) / 64 := by
  rw [geometry_nst, h, Nat.mul_zero, Nat.sub_zero]

/-- A block of the shortest legal secret has nine stripes, and a longer secret's has no fewer. -/
theorem geometry_nblk_le_div (hsecret : 136 ≤ secretLen) : (geometry len secretLen).nblk ≤ (len - 1) / 576 := by
  have hnspb := geometry_nspb len secretLen
  have hblk := geometry_blkLen len secretLen
  exact Nat.div_le_div_left (show 576 ≤ (geometry len secretLen).blkLen by omega) (by decide)

/-- Blocks and tail leave at least one byte and at most one stripe to LAST. -/
theorem geometry_last_stripe (hlen : 1 ≤ len) :
    (geometry len secretLen).blkLen * (geometry len secretLen).nblk + 64 * (geometry len secretLen).nst + 1 ≤ len ∧
      len ≤ (geometry len secretLen).blkLen * (geometry len secretLen).nblk +
        64 * (geometry len secretLen).nst + 64 := by
  have hblocks := geometry_nblk_mul_blkLen_le len secretLen
  have hnst := geometry_nst len secretLen
  rw [Nat.mul_comm] at hblocks
  omega

/-- The window of a block's last stripe ends before the secret's last eight bytes. -/
theorem geometry_last_window (hsecret : 72 ≤ secretLen) :
    8 * ((geometry len secretLen).nspb - 1) + 64 ≤ secretLen - 8 := by
  have hnspb := geometry_nspb len secretLen
  omega

end Geometry

/-! ### The lanes as numbers (`42_long.md` rules R106 to R111) -/

theorem lanes_initialLanes (i : Nat) (hi : i < 8) : Reference.lanes initialLanes i = Reference.initial i := by
  interval_cases i <;> rfl

section Lanes

variable (inp sec : Bytes)

/-- A lane's new value is made of its own old value, so eight lanes that agree go on agreeing. -/
theorem lanes_stripes (base n : Nat) {acc : Vector U64 8} {a : Nat → Nat}
    (h : ∀ i, i < 8 → Reference.lanes acc i = a i) (i : Nat) (hi : i < 8) :
    Reference.lanes (stripes inp sec base n acc) i = Reference.stripes inp sec base a n i := by
  induction n with
  | zero => exact h i hi
  | succ n ih =>
    rw [stripes_succ, lanes_accumulate _ _ _ _ _ i hi, Reference.accumulate, ih]
    rfl

theorem lanes_blocks (len secretLen n i : Nat) (hi : i < 8) :
    Reference.lanes (blocks inp sec secretLen (geometry len secretLen) n initialLanes) i =
      Reference.blocks inp sec secretLen n i := by
  induction n generalizing i with
  | zero => exact lanes_initialLanes i hi
  | succ n ih =>
    rw [blocks_succ, lanes_scrambleLanes _ _ _ i hi, Reference.scramble, lanes_stripes inp sec _ _ ih i hi]
    rfl

theorem lanes_longLanes (len : U64) (secretLen i : Nat) (hi : i < 8) :
    Reference.lanes (longLanes inp sec len secretLen) i =
      Reference.accumulate inp sec (len.toNat - 64) (secretLen - 71)
        (Reference.stripes inp sec (Reference.nblk len.toNat secretLen * Reference.blkLen secretLen)
          (Reference.blocks inp sec secretLen (Reference.nblk len.toNat secretLen))
          (Reference.nst len.toNat secretLen)) i := by
  have hblocks := lanes_blocks inp sec len.toNat secretLen (geometry len.toNat secretLen).nblk
  rw [longLanes, lanes_accumulate _ _ _ _ _ i hi, Reference.accumulate, lanes_stripes inp sec _ _ hblocks i hi]
  rfl

end Lanes

/-- What a stripe adds to a lane does not depend on the lanes (`42_long.md` rule R114). -/
theorem exists_accumulate_addend (inp sec : Bytes) (io so : Nat) (i : Fin 8) :
    ∃ d : U64, ∀ acc : Vector U64 8, (accumulate inp sec io so acc)[i] = acc[i] + d :=
  ⟨_, fun acc => (accumulate_lane inp sec io so acc i).trans (BitVec.add_assoc _ _ _)⟩

/-! ### `MERGE` and the composition (`42_long.md` rules R112, R113) -/

theorem toNat_mergeTerm (sec : Bytes) (acc : Vector U64 8) (j : Fin 4) :
    (mergeTerm sec acc j).toNat =
      Reference.fold (Reference.lanes acc (2 * j) ^^^ Reference.le sec (11 + 16 * j) 8)
        (Reference.lanes acc (2 * j + 1) ^^^ Reference.le sec (11 + 16 * j + 8) 8) := by
  rw [mergeTerm, toNat_mulFold, BitVec.toNat_xor, BitVec.toNat_xor, toNat_le64, toNat_le64,
    lanes_eq acc ⟨2 * j, by omega⟩, lanes_eq acc ⟨2 * j + 1, by omega⟩]
  rfl

/-- The four terms of `MERGE`, one after the other. -/
theorem mergeLanes_eq (sec : Bytes) (len : U64) (acc : Vector U64 8) :
    mergeLanes sec len acc =
      add64 (add64 (add64 (add64 (mul64 len PRIME64_1) (mergeTerm sec acc 0)) (mergeTerm sec acc 1))
        (mergeTerm sec acc 2)) (mergeTerm sec acc 3) := rfl

theorem toNat_mergeLanes (sec : Bytes) (len : U64) (acc : Vector U64 8) :
    (mergeLanes sec len acc).toNat = Reference.merge sec len.toNat (Reference.lanes acc) := by
  have hsum : (mergeLanes sec len acc).toNat =
      (len.toNat * PRIME64_1.toNat + ∑ j : Fin 4, (mergeTerm sec acc j).toNat) % 2 ^ 64 := by
    simp only [mergeLanes_eq, toNat_add64, toNat_mul64, Reference.add, Reference.mul, Nat.mod_add_mod,
      Fin.sum_univ_four, Nat.add_assoc]
  rw [hsum, Reference.merge, Finset.sum_range]
  simp only [toNat_mergeTerm]
  rfl

/-- `MERGE` reads the eight lanes alone. -/
theorem merge_congr (sec : Bytes) (len : Nat) {a b : Nat → Nat} (h : ∀ i, i < 8 → a i = b i) :
    Reference.merge sec len a = Reference.merge sec len b := by
  unfold Reference.merge
  refine congrArg (fun n => (_ + n) % _) (Finset.sum_congr rfl fun j hj => ?_)
  rw [Finset.mem_range] at hj
  rw [h (2 * j) (by omega), h (2 * j + 1) (by omega)]

theorem toNat_longPre (inp sec : Bytes) (len : U64) (secretLen : Nat) :
    (longPre inp sec len secretLen).toNat = Reference.longPre inp sec len.toNat secretLen := by
  rw [longPre, toNat_mergeLanes]
  exact merge_congr sec _ (lanes_longLanes inp sec len secretLen)

end Sys2Proof.Machine
end

section
/-! PROOFS. The statements about the long path. -/

namespace Sys2Proof.Proofs

open Sys2Proof.Machine

/-- Settles O37: the counts are the formulas by definition, the bounds those of the quotients and remainders. -/
theorem geometryBounds : Obligations.GeometryBounds := by
  intro len secretLen hlen hsecret
  obtain ⟨hleft, hstripe⟩ := geometry_last_stripe (secretLen := secretLen) (show 1 ≤ len by omega)
  refine ⟨rfl, rfl, rfl, rfl, geometry_nst_lt_nspb (by omega), fun hnblk => ?_, geometry_nblk_le_div hsecret, hleft,
    hstripe, geometry_last_window (by omega)⟩
  rw [geometry_nst_of_no_block hnblk]
  omega

/-- Settles O38: the lanes are the constants, and the whole blocks are counted under the effective secret. -/
theorem accInitLoadsInitialLanes : Obligations.AccInitLoadsInitialLanes := by
  intro s
  rw [s.secret_eq]
  exact ⟨initialLanes, rfl, lanes_initialLanes⟩

/-- Settles O41, by the sum of the four terms. -/
theorem mergeFoldsLanePairs : Obligations.MergeFoldsLanePairs := by
  intro s
  rw [s.secret_eq]
  exact ⟨_, rfl, toNat_mergeLanes _ _ _⟩

/-- Settles O42, with the lanes of every loop against R109 to R111. -/
theorem longIsTheComposition : Obligations.LongIsTheComposition := by
  intro s _ _
  rw [s.secret_eq, ← s.afterResult_eq]
  exact ⟨_, _, _, _, _, rfl, toNat_longPre _ _ _ _, toNat_aval3 _⟩

/-- Settles O43: the formulas of R107 and R108 for lane `i` name nothing else. -/
theorem lanesAreIndependent : Obligations.LanesAreIndependent := by
  intro inp inp' sec sec' io io' so so' n n' acc acc' i hacc
  refine ⟨fun hown hpartner hsecret => ?_, fun hsecret => ?_⟩
  · rw [accumulate_lane, accumulate_lane, hacc, hown, hpartner, hsecret]
  · rw [scrambleLanes_lane, scrambleLanes_lane, hacc, hsecret]

/-- Settles O44: each stripe adds to lane `i` a word that does not depend on the lanes. -/
theorem stripesOfOneBlockCommute : Obligations.StripesOfOneBlockCommute := by
  intro inp sec io so io' so' acc
  refine Vector.ext fun i hi => ?_
  obtain ⟨d, hd⟩ := exists_accumulate_addend inp sec io so ⟨i, hi⟩
  obtain ⟨d', hd'⟩ := exists_accumulate_addend inp sec io' so' ⟨i, hi⟩
  calc (accumulate inp sec io so (accumulate inp sec io' so' acc))[i]
    _ = acc[i] + d' + d := (hd _).trans (congrArg (· + d) (hd' acc))
    _ = acc[i] + d + d' := add_right_comm _ _ _
    _ = (accumulate inp sec io' so' (accumulate inp sec io so acc))[i] :=
        ((hd' _).trans (congrArg (· + d') (hd acc))).symm

end Sys2Proof.Proofs
end

section
/-! SUPPORT. The derived secret against its formulas: its lanes as numbers, how deriving is undone, and what SEEDMIX
leaves in `ESEC` (`43_seedmixer.md` rules R126 to R130). -/

namespace Sys2Proof.Machine

/-! ### Lanes (R126) -/

theorem byteOf_le64 (b : Bytes) (off : Nat) {k : Nat} (hk : k < 8) : byteOf (le64 b off) k = b (off + k) :=
  BitVec.eq_of_toNat_eq ((byteOf_toNat _ _).trans (le64_div_mod b off k hk))

theorem toNat_seedLane (src : Bytes) (seed : U64) (j : Nat) :
    (seedLane src seed j).toNat =
      if j % 2 = 0 then Reference.add (Reference.le src (8 * j) 8) seed.toNat
      else Reference.sub (Reference.le src (8 * j) 8) seed.toNat := by
  unfold seedLane
  split
  · rw [toNat_add64, toNat_le64]
  · rw [toNat_sub64, toNat_le64]

theorem seedLane_eq_le64_iff {src : Bytes} {seed : U64} {j : Nat} :
    seedLane src seed j = le64 src (8 * j) ↔ seed = 0 := by
  unfold seedLane
  split
  · exact add_eq_left
  · exact sub_eq_self

/-- What an even lane was given the negated seed takes back, and an odd lane conversely. -/
theorem seedLane_neg {src b : Bytes} {seed : U64} {j : Nat} (h : le64 b (8 * j) = seedLane src seed j) :
    seedLane b (-seed) j = le64 src (8 * j) := by
  rw [seedLane, h, seedLane]
  split
  · exact add_neg_cancel_right _ _
  · exact (sub_neg_eq_add _ _).trans (sub_add_cancel _ _)

/-! ### Bytes (R126, R130) -/

/-- A derived secret is determined by its whole lanes and the trailing bytes of its source. -/
theorem seedMixBytes_agree {src b : Bytes} {n : Nat} {seed : U64}
    (hlane : ∀ j, j < n / 8 → seedLane src seed j = le64 b (8 * j))
    (htrailing : ∀ k, 8 * (n / 8) ≤ k → k < n → src k = b k) :
    AgreeBelow n (fun k => (seedMixBytes src n seed).getD k 0) b := by
  intro k hk
  dsimp only
  rcases Nat.lt_or_ge k (8 * (n / 8)) with hwhole | hrest
  · have hbyte := seedMixBytes_lane src n seed (k / 8) (k % 8) (by omega) (by omega)
    rw [hlane _ (by omega), byteOf_le64 _ _ (by omega), Nat.div_add_mod] at hbyte
    exact hbyte
  · rw [seedMixBytes_trailing _ _ _ _ hrest hk, htrailing k hrest hk]

theorem seedMixBytes_zero_agree (src : Bytes) (n : Nat) :
    AgreeBelow n (fun k => (seedMixBytes src n 0).getD k 0) src :=
  seedMixBytes_agree (fun _ _ => seedLane_eq_le64_iff.2 rfl) fun _ _ _ => rfl

theorem seedMixBytes_neg_agree (src : Bytes) (n : Nat) (seed : U64) :
    AgreeBelow n
      (fun k => (seedMixBytes (fun i => (seedMixBytes src n seed).getD i 0) n (-seed)).getD k 0) src :=
  seedMixBytes_agree (fun j hj => seedLane_neg (le64_seedMixBytes src n seed j hj))
    fun k hrest hk => seedMixBytes_trailing src n seed k hrest hk

/-! ### Phase SEEDMIX -/

/-- The source of a derivation (R127, R129). -/
theorem State.mixSource_eq (s : State) :
    Reference.mixSource s = (s.space (s.req.mixSource s.cfg).space, (s.req.mixSource s.cfg).len) := by
  unfold Reference.mixSource Request.mixSource Request.secretInUse
  cases s.req.secretEn <;> cases s.cfg.policy <;> rfl

/-- SEEDMIX puts the derived bytes below `S` and keeps the others. -/
theorem State.read_mixed_esecMem (s : State) (k : Nat) :
    s.mixed.esecMem.read k =
      if k < (Reference.mixSource s).2 then
        (seedMixBytes (Reference.mixSource s).1 (Reference.mixSource s).2 s.req.seed).getD k 0
      else s.esecMem.read k := by
  rw [s.mixSource_eq]
  refine (Memory.read_fill _ _ _).trans ?_
  rw [seedMixBytes_length]

theorem State.mixed_esecMem_agree (s : State) :
    AgreeBelow (Reference.mixSource s).2 s.mixed.esecMem.read
      (fun k => (seedMixBytes (Reference.mixSource s).1 (Reference.mixSource s).2 s.req.seed).getD k 0) :=
  fun k hk => (s.read_mixed_esecMem k).trans (if_pos hk)

/-- Where a derivation is called for, the effective secret is the one SEEDMIX wrote. -/
theorem State.mixed_secret {s : State} (h : s.req.mix s.cfg = true) :
    s.mixed.effectiveLen = (Reference.mixSource s).2 ∧ s.mixed.effectiveSecret = s.mixed.esecMem.read := by
  have hview : s.mixed.req.effectiveSecret s.mixed.cfg = { space := .esec, len := (s.req.mixSource s.cfg).len } :=
    if_pos h
  rw [State.effectiveLen, State.effectiveSecret, hview, s.mixSource_eq]
  exact ⟨rfl, rfl⟩

end Sys2Proof.Machine
end

section
/-! PROOFS. The statements about the derived secret. -/

namespace Sys2Proof.Proofs

open Sys2Proof.Machine

/-- Settles O34: below `S` the bytes of `ESEC` are the derived ones, of which each lane and trailing byte is known. -/
theorem seedmixWritesEveryLane : Obligations.SeedmixWritesEveryLane := by
  intro s
  refine ⟨s.mixed.esecMem, rfl, fun j hj => ?_, fun k hrest hk => ?_, fun k hk => ?_⟩
  · rw [← toNat_le64, s.mixed_esecMem_agree.le64_eq (by omega), le64_seedMixBytes _ _ _ _ hj, toNat_seedLane]
  · exact (s.mixed_esecMem_agree k hk).trans (seedMixBytes_trailing _ _ _ _ hrest hk)
  · rw [s.read_mixed_esecMem, if_neg (by omega)]

/-- Settles O35: adding or subtracting the seed fixes a lane only if the seed is 0, and the negated seed undoes it. -/
theorem seedmixIsUndoneByTheNegatedSeed : Obligations.SeedmixIsUndoneByTheNegatedSeed := by
  intro src n seed
  refine ⟨seedMixBytes_zero_agree src n, fun hseed j hj hsame => hseed ?_, seedMixBytes_neg_agree src n seed⟩
  rw [← toNat_le64, ← toNat_le64, le64_seedMixBytes _ _ _ _ hj] at hsame
  exact seedLane_eq_le64_iff.1 (BitVec.eq_of_toNat_eq hsame)

/-- Settles O36, with the secret of every long call and the state that SEEDMIX leaves. -/
theorem effectiveSecretFollowsPolicy : Obligations.EffectiveSecretFollowsPolicy := by
  refine ⟨fun s => s.secret_eq.symm, fun s hseed hpolicy => ?_⟩
  obtain ⟨hlen, hsecret⟩ := State.mixed_secret (Request.mix_eq_true_iff.2 ⟨hseed, hpolicy⟩)
  exact ⟨s.mixed, rfl, hlen, fun k hk => (congrFun hsecret k).trans (s.mixed_esecMem_agree k (hlen ▸ hk))⟩

end Sys2Proof.Proofs
end

section
/-! SUPPORT. The final mixers: which formula a length selects, and why `AVAL64` and `AVAL3` lose no information
(`44_finalizer.md` rules R135 to R138). -/

namespace Sys2Proof.Machine

/-! ### The mixer of a length (R138) -/

theorem Bucket.finish_eq_of_covers {b : Bucket} {len : Nat} (h : b.Covers len) (pre : Nat) :
    b.finish len pre =
      if len ≤ 3 then Reference.aval64 pre else if len ≤ 8 then Reference.rrmxmx pre len else Reference.aval3 pre := by
  cases b <;> simp only [Bucket.Covers] at h
  case len0 | len1_3 => exact (if_pos (by omega)).symm
  case len4_8 => exact ((if_neg (by omega)).trans (if_pos h.2)).symm
  all_goals exact ((if_neg (by omega)).trans (if_neg (by omega))).symm

theorem Request.consultsUnit_eq_false_iff (r : Request) :
    r.consultsUnit = false ↔ ¬(240 < r.len.toNat ∧ r.ovrEn = true) := by
  rw [← Bool.not_eq_true, r.consultsUnit_iff, r.bucket_eq_long_iff, and_comm]

/-- What a mixer delivers, with the phase after the result as the statements name it (`40_dispatch.md` rule R84). -/
theorem State.next_deliver (s : State) (v : U64) :
    (.next (s.deliver v) : Host.Outcome State Fault Refusal) =
      .next { s with result := v, seq := { s.seq with phase := Reference.afterResult s } } := by
  rw [← s.afterResult_eq]
  rfl

/-! ### Xorshifts and odd factors lose nothing -/

/-- A shift right by at least one bit makes every value but 0 smaller. -/
theorem eq_zero_of_ushiftRight_eq_self {v : U64} {n : Nat} (hn : 0 < n) (h : v >>> n = v) : v = 0 := by
  have hdiv : v.toNat / 2 ^ n = v.toNat := by
    rw [← Nat.shiftRight_eq_div_pow, ← BitVec.toNat_ushiftRight, h]
  by_contra hv
  have hpos : 0 < v.toNat := Nat.pos_of_ne_zero fun h0 => hv (BitVec.eq_of_toNat_eq h0)
  exact (Nat.div_lt_self hpos (Nat.one_lt_two_pow hn.ne')).ne hdiv

theorem xorShift_xor (v w : U64) (n : Nat) : xorShift (v ^^^ w) n = xorShift v n ^^^ xorShift w n := by
  simp only [xorShift, BitVec.ushiftRight_xor_distrib]
  ac_rfl

/-- `XORSHIFT` is linear over xor, and only 0 is shifted to itself. -/
theorem xorShift_injective {n : Nat} (hn : 0 < n) : Function.Injective (xorShift · n) := by
  intro v w h
  have hzero : xorShift (v ^^^ w) n = 0 := (xorShift_xor v w n).trans (BitVec.xor_eq_zero_iff.2 h)
  have hfixed : (v ^^^ w) >>> n = v ^^^ w := (BitVec.xor_eq_zero_iff.1 hzero).symm
  exact BitVec.xor_eq_zero_iff.1 (eq_zero_of_ushiftRight_eq_self hn hfixed)

/-- An odd factor cancels modulo a power of two. -/
theorem mul64_injective {p : U64} (hp : Odd p.toNat) : Function.Injective (mul64 · p) := by
  intro v w (h : v * p = w * p)
  have hmod : v.toNat * p.toNat ≡ w.toNat * p.toNat [MOD 2 ^ 64] := by
    rw [Nat.ModEq, ← BitVec.toNat_mul, h, BitVec.toNat_mul]
  have hcancel := hmod.cancel_right_of_coprime ((Nat.coprime_two_left.2 hp).pow_left 64)
  exact BitVec.eq_of_toNat_eq (hcancel.eq_of_lt_of_lt v.isLt w.isLt)

theorem aval64_injective : Function.Injective aval64 :=
  (xorShift_injective (n := 32) (by decide)).comp <|
    (mul64_injective (p := PRIME64_3) (by decide)).comp <|
    (xorShift_injective (n := 29) (by decide)).comp <|
    (mul64_injective (p := PRIME64_2) (by decide)).comp <| xorShift_injective (n := 33) (by decide)

theorem aval3_injective : Function.Injective aval3 :=
  (xorShift_injective (n := 32) (by decide)).comp <|
    (mul64_injective (p := PRIME_MX1) (by decide)).comp <| xorShift_injective (n := 37) (by decide)

end Sys2Proof.Machine
end

section
/-! PROOFS. The statements about the final mixers. -/

namespace Sys2Proof.Proofs

open Sys2Proof.Machine

/-- Settles O46: each operation delivers its mixer's value, which is its formula's. -/
theorem finalMixersWriteResult : Obligations.FinalMixersWriteResult := fun s =>
  ⟨_, _, _, s.next_deliver _, s.next_deliver _, s.next_deliver _, toNat_aval64 _, toNat_aval3 _, toNat_rrmxmx _ _⟩

/-- Settles O47: without the unit FINAL delivers the value of the bucket's mixer, and the length selects the bucket. -/
theorem finalAppliesTheBucketsMixer : Obligations.FinalAppliesTheBucketsMixer := by
  intro s hovr
  have hunit := s.req.consultsUnit_eq_false_iff.2 hovr
  have hvalue := (Request.toNat_mixer_apply hunit s.pre).trans
    (Bucket.finish_eq_of_covers (Request.bucket_covers rfl) s.pre.toNat)
  refine ⟨_, (execFinal_of_not_consulted hunit).trans (s.next_deliver _), fun hmax => ?_, fun hmin hmax => ?_,
    fun hmin => ?_⟩
  · rwa [if_pos hmax] at hvalue
  · rwa [if_neg (by omega), if_pos hmax] at hvalue
  · rwa [if_neg (by omega), if_neg (by omega)] at hvalue

/-- Settles O48: both mixers are made of xorshifts and odd factors, and an injection of a finite type into itself is
onto. -/
theorem finalMixersAreBijections : Obligations.FinalMixersAreBijections :=
  ⟨Finite.injective_iff_bijective.1 aval64_injective, Finite.injective_iff_bijective.1 aval3_injective⟩

end Sys2Proof.Proofs
end

section
/-! SUPPORT. The hexadecimal rendering: what each character is, and how it reads back (`45_formatter.md` rules R145 and
R146). -/

/-! ### The formula of a digit -/

namespace Sys2Proof.Reference

theorem digit_range {n : Nat} (hn : n < 16) :
    (0x30 ≤ digit n ∧ digit n ≤ 0x39) ∨ (0x61 ≤ digit n ∧ digit n ≤ 0x66) := by
  unfold digit
  split <;> omega

/-- A digit is read back by its range: the two ranges of characters do not meet. -/
theorem digit_readBack {n : Nat} (hn : n < 16) :
    (if digit n ≤ 0x39 then digit n - 0x30 else digit n - 0x61 + 10) = n := by
  by_cases h : n ≤ 9
  · rw [digit, if_pos h, if_pos (by omega), Nat.add_sub_cancel_left]
  · rw [digit, if_neg h, if_neg (by omega)]
    omega

end Sys2Proof.Reference

/-! ### The characters of `HEXFMT` -/

namespace Sys2Proof.Machine

theorem toNat_digit {nib : Byte} (h : nib.toNat < 16) : (digit nib).toNat = Reference.digit nib.toNat := by
  have hdecimal : nib < 10 ↔ nib.toNat ≤ 9 := by bv_omega
  simp only [digit, Reference.digit, hdecimal]
  split <;> bv_omega

theorem toNat_nibble (v : U64) (n : Nat) :
    (((v >>> n) &&& 0xF).setWidth 8 : Byte).toNat = v.toNat / 2 ^ n % 16 := by
  have hmask : ((v >>> n) &&& 0xF).toNat = v.toNat / 2 ^ n % 16 := by
    rw [BitVec.toNat_and, BitVec.toNat_ushiftRight, Nat.shiftRight_eq_div_pow]
    exact Nat.and_two_pow_sub_one_eq_mod _ 4
  rw [BitVec.toNat_setWidth, hmask, Nat.mod_eq_of_lt (by omega)]

theorem toNat_hexFmt_getElem (v : U64) {k : Nat} (hk : k < 16) :
    ((hexFmt v)[k]).toNat = Reference.digit (v.toNat / 2 ^ (60 - 4 * k) % 16) := by
  rw [hexFmt, Vector.getElem_ofFn, toNat_digit (toNat_nibble v _ ▸ Nat.mod_lt _ (by decide)), toNat_nibble]

end Sys2Proof.Machine

/-! ### The digits of a number -/

namespace Sys2Proof.Proofs

/-- A number below `b ^ n` is the sum of its `n` digits in base `b`, the most significant first. -/
theorem sum_digits_eq {b n x : Nat} (hx : x < b ^ n) :
    ∑ k : Fin n, b ^ (n - 1 - k.val) * (x / b ^ (n - 1 - k.val) % b) = x := by
  have hdigits := congrArg Fin.val (finFunctionFinEquiv.apply_symm_apply (⟨x, hx⟩ : Fin (b ^ n)))
  rw [finFunctionFinEquiv_apply, ← Equiv.sum_comp Fin.revPerm] at hdigits
  refine Eq.trans (Finset.sum_congr rfl fun k _ => ?_) hdigits
  have hplace : (Fin.revPerm k).val = n - 1 - k.val := by rw [Fin.revPerm_apply, Fin.val_rev]; omega
  rw [mul_comm, ← hplace]
  rfl

end Sys2Proof.Proofs
end

section
/-! PROOFS. The statements about the formatter. -/

namespace Sys2Proof.Proofs

open Sys2Proof.Machine

/-- Settles O49: `HEX` becomes the rendering of `RESULT`, of which each character is known. -/
theorem formatRendersResult : Obligations.FormatRendersResult := fun s =>
  ⟨hexFmt s.result, rfl, fun _ hk => toNat_hexFmt_getElem s.result hk⟩

/-- Settles O50: each character is a digit that reads back as its nibble, and the nibbles are the digits in base 16. -/
theorem hexRenderingReadsBack : Obligations.HexRenderingReadsBack := by
  intro v
  have hchar (k : Fin 16) : (hexFmt v)[k].toNat = Reference.digit (v.toNat / 2 ^ (60 - 4 * k.val) % 16) :=
    toNat_hexFmt_getElem v k.isLt
  have hnib (k : Fin 16) : v.toNat / 2 ^ (60 - 4 * k.val) % 16 < 16 := Nat.mod_lt _ (by decide)
  refine ⟨fun k => ?_, (sum_digits_eq (b := 16) (n := 16) v.isLt).symm.trans (Finset.sum_congr rfl fun k _ => ?_)⟩
  · rw [hchar]
    exact Reference.digit_range (hnib k)
  · have hplace : 2 ^ (60 - 4 * k.val) = 16 ^ (15 - k.val) := by
      rw [show 60 - 4 * k.val = 4 * (15 - k.val) by omega, pow_mul]
      norm_num
    rw [hchar, Reference.digit_readBack (hnib k), hplace]

end Sys2Proof.Proofs
end

section
/-! SUPPORT. The three outcomes of CHECK, what a step does with the coming moves, and the call that waits for an answer
that does not come (`60_exceptions.md` rules R153, R165). -/

namespace Sys2Proof.Machine

/-! ### The check -/

theorem Request.secretTooShort_iff (r : Request) :
    (r.secretEn && decide (r.secretLen.toNat < secretMin)) = true ↔ r.secretEn = true ∧ r.secretLen.toNat < 136 := by
  rw [Bool.and_eq_true, decide_eq_true_eq, secretMin]

theorem execCheck_of_short_secret {s : State} (h : s.req.secretEn = true ∧ s.req.secretLen.toNat < 136) :
    execCheck s = .next (s.raise .invalidSecret) :=
  if_pos (s.req.secretTooShort_iff.2 h)

theorem execCheck_of_absent_input {s : State} (hsecret : ¬(s.req.secretEn = true ∧ s.req.secretLen.toNat < 136))
    (hinput : s.req.inNull = true) : execCheck s = .next (s.raise .invalidInput) :=
  (if_neg (s.req.secretTooShort_iff.not.2 hsecret)).trans (if_pos hinput)

theorem Request.accepted_iff (r : Request) :
    r.accepted = true ↔ ¬(r.secretEn = true ∧ r.secretLen.toNat < 136) ∧ r.inNull = false := by
  rw [← r.secretTooShort_iff, Bool.not_eq_true, Request.accepted, Bool.and_eq_true, Bool.not_eq_true',
    Bool.not_eq_true']

/-- `STATUS` after a failed check: ERR, the code, bucket 7, both valid bits clear (`30_encoding.md` rules R62 to R64). -/
theorem statusWord_raise_startCall (s : State) :
    statusWord (s.startCall.raise .invalidSecret) = 0x77 ∧ statusWord (s.startCall.raise .invalidInput) = 0x7B := by
  have hreset : statusWord (State.reset.startCall.raise .invalidSecret) = 0x77 ∧
      statusWord (State.reset.startCall.raise .invalidInput) = 0x7B := by decide
  exact ⟨(statusWord_congr rfl rfl).trans hreset.1, (statusWord_congr rfl rfl).trans hreset.2⟩

/-- A call with either fault raises an error one step after its start, the secret's before the input's, and the error
state then stays (`60_exceptions.md` rules R153, R155). -/
theorem exists_raise_of_fault {s : State} (hi : s.inputs = [])
    (hfault : (s.cmd.secretEn = true ∧ s.secretLen.toNat < 136) ∨ s.cmd.inNull = true) :
    ∃ e, step s.startCall = .next (s.startCall.raise e) ∧
      statusWord (s.startCall.raise e) = (if s.cmd.secretEn = true ∧ s.secretLen.toNat < 136 then 0x77 else 0x7B) ∧
      step (s.startCall.raise e) = .next (s.startCall.raise e) := by
  have hcheck : step s.startCall = execCheck s.startCall := step_of_no_inputs s.startCall hi
  have hstay (e : ErrCode) : step (s.startCall.raise e) = .next (s.startCall.raise e) := step_of_no_inputs _ hi
  obtain ⟨hsecret, hinput⟩ := statusWord_raise_startCall s
  by_cases hshort : s.cmd.secretEn = true ∧ s.secretLen.toNat < 136
  · rw [if_pos hshort]
    exact ⟨_, hcheck.trans (execCheck_of_short_secret hshort), hsecret, hstay _⟩
  · rw [if_neg hshort]
    exact ⟨_, hcheck.trans (execCheck_of_absent_input hshort (hfault.resolve_left hshort)), hinput, hstay _⟩

/-! ### The coming moves -/

theorem State.hostWrite_inputs {s t : State} {v : U64} {r : Reg} (h : s.hostWrite v r = .next t) :
    t.inputs = s.inputs := by
  rcases s.hostWrite_cases t v r h with rfl | rfl | rfl | rfl | ⟨-, -, rfl⟩ <;> rfl

theorem State.hostRead_inputs (s : State) (r : Reg) : (s.hostRead r).2.inputs = s.inputs := by
  rcases s.hostRead_state r with h | h <;> rw [h]

/-- A move leaves the later ones, but for a read of `POLL`, which may put its next read before them. -/
theorem deliverInput_inputs {i : Input} {s t : State} (h : deliverInput i s = .next t) :
    t.inputs = s.inputs ∨ t.inputs = pollAgain s.inputs := by
  cases i <;> simp only [deliverInput] at h
  case datapath =>
    cases (exec_phase_eq_datapath s).symm.trans ((runCode_phaseCode s s).symm.trans h)
    exact .inl s.datapath_keepsHostState.inputs
  case access w =>
    cases hd : decode (accessCode w) with
    | error e => cases (runCode_of_decode_error hd s).symm.trans h
    | ok i =>
      rw [runCode_of_decode hd] at h
      rw [decode_accessCode] at hd
      rcases exec_of_decodeHostacc hd s with ⟨_, r, v, -, -, hx⟩ | ⟨r, hx⟩
      · exact .inl (State.hostWrite_inputs (hx.symm.trans h))
      · cases hx.symm.trans h
        exact .inl (s.hostRead_inputs r)
  case command w =>
    exact .inl (State.hostWrite_inputs (v := w) (r := .cmd) ((runCode_commandCode w s).symm.trans h))
  case writeNarrow offset width v =>
    by_cases ho : offset.toNat < 0x40
    · exact .inl (State.hostWrite_inputs ((writeNarrow_in_window _ _ _ _ ho).symm.trans h))
    · cases (writeNarrow_past_window offset width v s (by omega)).symm.trans h
  case readByte offset =>
    obtain ⟨v, draws, hr⟩ := readByte_cases offset s
    cases hr.symm.trans h
    exact .inl rfl
  case ldin bytes =>
    rcases loadInput_cases bytes s with ⟨-, hl⟩ | ⟨-, hl⟩ <;> cases hl.symm.trans h
    exact .inl rfl
  case ldsec bytes =>
    rcases loadSecret_cases bytes s with ⟨-, hl⟩ | ⟨-, ⟨-, hl⟩ | ⟨-, hl⟩⟩ <;> cases hl.symm.trans h
    exact .inl rfl
  case poll =>
    obtain ⟨moves, hp, ⟨-, hmoves⟩ | ⟨-, hmoves⟩⟩ := poll_cases s <;> cases hp.symm.trans h
    · exact .inl hmoves
    · exact .inr hmoves
  case answer v => rcases unitAnswers_cases v s with hu | hu <;> cases hu.symm.trans h <;> exact .inl rfl
  case reset => cases h; exact .inl rfl

/-- A move adds no other later move than the datapath's and a read of `POLL`. -/
theorem mem_inputs_of_deliverInput {i j : Input} {s t : State} (h : deliverInput i s = .next t) (hj : j ∈ t.inputs) :
    j = .datapath ∨ j = .poll ∨ j ∈ s.inputs := by
  rcases deliverInput_inputs h with hsame | hagain
  · exact .inr (.inr (hsame ▸ hj))
  · exact mem_pollAgain _ _ (hagain ▸ hj)

/-! ### A property of every run -/

/-- A run of one step more goes on only if its first step does. -/
theorem exists_step_of_coreRun_succ (M : Host.Core) {a c : M.State} {n : Nat} (h : M.run (n + 1) a = .next c) :
    ∃ b, M.step a = .next b ∧ M.run n b = .next c := by
  rw [Host.Core.run] at h
  split at h
  · exact ⟨_, ‹_›, h⟩
  all_goals cases h

/-- What every step keeps, a run keeps. -/
theorem run_keeps {P : State → Prop} (hstep : ∀ {s t}, P s → step s = .next t → P t) {s t : State} {n : Nat} (hs : P s)
    (h : run n s = .next t) : P t := by
  induction n generalizing s with
  | zero => cases h; exact hs
  | succ n ih =>
    obtain ⟨u, hu, hrun⟩ := exists_step_of_coreRun_succ Sys2Proof.core h
    exact ih (hstep hs hu) hrun

/-! ### Waiting for an answer -/

/-- The call waits for the unit's answer to `request`, and no answer and no reset is to come. -/
structure State.WaitsUnanswered (request : OvrRequest) (s : State) : Prop where
  phase : s.seq.phase = .ovrWait
  ovr : s.ovr = some request
  answer : s.answer = none
  moves : ∀ i ∈ s.inputs, i ≠ .reset ∧ ∀ v, i ≠ .answer v

/-- The datapath's step of such a call does nothing (`60_exceptions.md` rule R165). -/
theorem State.WaitsUnanswered.exec_phase {request : OvrRequest} {s : State} (h : s.WaitsUnanswered request) :
    exec s.seq.phase.instr s = .next s := by
  rw [h.phase]
  exact (exec_of_request (by simp [h.ovr]) (.inl rfl)).trans
    (congrArg _ (State.takeAnswer_of_unanswered (.inr h.answer)))

theorem State.WaitsUnanswered.step_self {request : OvrRequest} {s : State} (h : s.WaitsUnanswered request)
    (hi : s.inputs = []) : step s = .next s :=
  (step_of_no_inputs s hi).trans h.exec_phase

theorem Input.eq_datapath_of_isOthers {i : Input} (hothers : i.isOthers = true) (hreset : i ≠ .reset)
    (hanswer : ∀ v, i ≠ .answer v) : i = .datapath := by
  cases i
  case datapath => rfl
  case answer v => exact absurd rfl (hanswer v)
  case reset => exact absurd rfl hreset
  all_goals cases hothers

/-- A host move keeps what the call waits with, since it is host-side only; a step of the datapath keeps the state. -/
theorem State.WaitsUnanswered.of_deliverInput {request : OvrRequest} {i : Input} {s t : State}
    (h : s.WaitsUnanswered request) (hreset : i ≠ .reset) (hanswer : ∀ v, i ≠ .answer v)
    (ht : deliverInput i s = .next t) : t.WaitsUnanswered request := by
  cases hothers : i.isOthers
  case true =>
    obtain rfl := Input.eq_datapath_of_isOthers hothers hreset hanswer
    cases h.exec_phase.symm.trans ((runCode_phaseCode s s).symm.trans ht)
    exact h
  case false =>
    have hbusy : s.seq.phase.busy = true := by rw [h.phase]; rfl
    have hside := (deliverInput_undisturbed hbusy hothers ht).hostSide
    obtain ⟨-, -, -, -, -, -, hseq, -, hovr⟩ := hside.sameCall
    refine ⟨hseq ▸ h.phase, hovr.trans h.ovr, hside.answer.trans h.answer, fun j hj => ?_⟩
    rcases mem_inputs_of_deliverInput ht hj with rfl | rfl | hj
    · simp
    · simp
    · exact h.moves j hj

theorem State.WaitsUnanswered.of_step {request : OvrRequest} {s t : State} (h : s.WaitsUnanswered request)
    (hstep : step s = .next t) : t.WaitsUnanswered request := by
  cases hi : s.inputs with
  | nil => cases (h.step_self hi).symm.trans hstep; exact h
  | cons i rest =>
    obtain ⟨⟨hreset, hanswer⟩, hrest⟩ := List.forall_mem_cons.1 (hi ▸ h.moves)
    rw [step_of_input s i rest hi] at hstep
    exact State.WaitsUnanswered.of_deliverInput (s := { s with inputs := rest }) ⟨h.phase, h.ovr, h.answer, hrest⟩
      hreset hanswer hstep

end Sys2Proof.Machine
end

section
/-! PROOFS. The statements about the error check and the unanswered override request. -/

namespace Sys2Proof.Proofs

open Sys2Proof.Machine

/-- Settles O19: the three outcomes of CHECK, by the two faults in their order. -/
theorem checkTestsSecretThenInput : Obligations.CheckTestsSecretThenInput := fun s =>
  ⟨execCheck_of_short_secret, execCheck_of_absent_input, fun hsecret hinput =>
    execCheck_of_accepted (s.req.accepted_iff.2 ⟨hsecret, hinput⟩)⟩

/-- Settles O20: the command starts a call, whose check raises the error, and ERR waits. -/
theorem failedCheckEndsInErr : Obligations.FailedCheckEndsInErr := by
  intro s hex secretEn ovrEn inNull ⟨hwait, hmax⟩ hi hfault
  have hstart := s.commandWrite_start { op := if hex then .hashHex else .hash, secretEn, ovrEn, inNull }
    ((Phase.stateCode_ne_one_iff _).1 hwait) fun ⟨hen, hlt⟩ => absurd (hmax hen) (Nat.not_le.2 hlt)
  obtain ⟨e, hcheck, hstatus, hstay⟩ := exists_raise_of_fault
    (s := { s with cmd := { op := if hex then .hashHex else .hash, secretEn, ovrEn, inNull } }) hi hfault
  exact ⟨_, _, (exec_command hex secretEn ovrEn inNull s).trans hstart, hcheck, rfl, hstatus, rfl, rfl, rfl, rfl, rfl,
    rfl, run_of_step_self hstay⟩

/-- Settles O53: every step keeps the wait, so a run does; the waiting phase reads BUSY, and with no move to come a step
leaves the state. -/
theorem unansweredOverrideNeverEnds : Obligations.UnansweredOverrideNeverEnds := by
  intro s t n hphase hovr hanswer hmoves hrun
  obtain ⟨request, hrequest⟩ := Option.ne_none_iff_exists'.1 hovr
  have hs : s.WaitsUnanswered request := ⟨hphase, hrequest, hanswer, hmoves⟩
  have ht : t.WaitsUnanswered request := run_keeps State.WaitsUnanswered.of_step hs hrun
  refine ⟨ht.phase, ht.ovr.trans hrequest.symm, ht.answer, ?_, fun hi => ?_⟩
  · have hbusy : Reference.stateCode t.seq.phase.code = 1 := by rw [ht.phase]; rfl
    rw [statusWordLayout t, hbusy]
    omega
  · exact Host.Outcome.next.inj (hrun.symm.trans (run_of_step_self (hs.step_self hi) n))

end Sys2Proof.Proofs
end

section
/-! PROOFS. The statement about a command while a call runs. -/

namespace Sys2Proof.Proofs

open Sys2Proof.Machine

/-- `STATE` is the low two bits of the status word (`30_encoding.md` rule R62). -/
theorem statusWord_mod_four (s : State) : (statusWord s).toNat % 4 = Reference.stateCode s.seq.phase.code := by
  have hlt : Reference.stateCode s.seq.phase.code < 4 := toNat_stateCode s.seq.phase ▸ s.seq.phase.stateCode.isLt
  rw [statusWordLayout s]
  omega

/-- Settles O11: both are a write of the command register, which a busy phase ignores. -/
theorem commandWhileBusyIgnored : Obligations.CommandWhileBusyIgnored := by
  intro s v hex secretEn ovrEn inNull hstate
  have hbusy : s.seq.phase.busy = true := (Phase.stateCode_eq_one_iff _).1 ((statusWord_mod_four s).symm.trans hstate)
  exact ⟨(exec_wr_cmd v s).trans (State.commandWrite_of_busy hbusy _),
    (exec_command hex secretEn ovrEn inNull s).trans (State.commandWrite_of_busy hbusy _)⟩

end Sys2Proof.Proofs
end
